-- ==== Sys2Proof/Word.lean ====
section
/-! DEFINITION. The word types: what the spec treats as bits (00_scope.md R6, R7). -/

namespace Sys2Proof

/-- A register, a data word, an immediate, a pc: 32 bits, read as signed unless a rule says otherwise (R6, R7, R13). -/
abbrev Word := BitVec 32

/-- A register index field, 4 bits unsigned; every value is legal (R64). -/
abbrev Reg := BitVec 4

/-- One instruction record as the fetch port delivers it, whole: `w[63:0]` (R61, R43). -/
abbrev RecordWord := BitVec 64

/-- Data memory: (word index, word) pairs. A word index that is not listed holds 0 (R28, `DMEM_INIT` default);
the canonical form is `Memory.wf` (notes/assumptions/5.md). -/
abbrev Memory := List (Nat × Word)

end Sys2Proof
end

