-- ==== Sys2Proof/Config.lean ====
section
/-! DEFINITION. What an implementation fixes (00_scope.md R6) and the free values. -/

namespace Sys2Proof

/-- `NREG` (R6). -/
def Config.registerCount : Nat := 16

/-- `IW`: what one record advances the pc by (R6, R68). -/
def Config.instructionWidth : Nat := 4

/-- The default of the open parameter `PC_BASE` (R6, D11; notes/assumptions/3.md). DESIGN CHOICE, unsafe. -/
def Config.defaultPcBase : Word := 4000#32

/-- The default of the open parameter `DMEM_WORDS` (R6, D12; notes/assumptions/3.md). DESIGN CHOICE, unsafe. -/
def Config.defaultDmemWords : Nat := 4096

/-- The largest `DMEM_WORDS` that `initialize` takes: `2^31` (R193). -/
def Config.maxDmemWords : Nat := 2147483648

/-- The bound of `PC_BASE + 4*N`: `2^31 - 1` (R6, R72). -/
def Config.maxProgramEnd : Int := 2147483647

/-- FREE VALUE: what a field of an occupied latch holds that no phase has written for this instruction: field 1, 2, 3
are `v1`, `v2`, `v3`, field 4 is `result`, field 5 is `addr` (93_implementation_defined.md U12: any value). No rule
reads one, so no run reaches it (notes/assumptions/8.md). DESIGN CHOICE, safe. -/
opaque Config.unwrittenField : Nat → Word

/-- The parameters of a run (R6, R27): read by the machine, written by nothing after `initialize`. -/
structure Params where
  /-- `PC_BASE` -/
  pcBase : Word
  /-- `DMEM_WORDS` -/
  dmemWords : Nat
  /-- `DMEM_INIT`, as a memory: word indices not listed hold 0, the default (R28). -/
  dmemInit : Memory
  deriving DecidableEq, Repr

/-- The defaults of R6 (notes/assumptions/3.md). DESIGN CHOICE, unsafe. -/
def Params.default : Params :=
  { pcBase := Config.defaultPcBase, dmemWords := Config.defaultDmemWords, dmemInit := [] }

end Sys2Proof
end

