-- ==== Sys2Proof/Syntax.lean ====
section
/-! DEFINITION. The nineteen instructions of 30_encoding.md R66, one constructor per row of spec/opcode_table.json, with
the operands its format uses (R62). Operand types are exactly the record's fields, so every term is well formed
(R63, R64). -/

namespace Sys2Proof

/-- The APEX subset ISA (R2, R66). -/
inductive Instr where
  /-- `NOP` (R180) -/
  | nop
  /-- `ADD Rd,Rs1,Rs2` (R131) -/
  | add (rd rs1 rs2 : Reg)
  /-- `SUB Rd,Rs1,Rs2` (R132) -/
  | sub (rd rs1 rs2 : Reg)
  /-- `AND Rd,Rs1,Rs2` (R133) -/
  | and (rd rs1 rs2 : Reg)
  /-- `OR Rd,Rs1,Rs2` (R134) -/
  | or (rd rs1 rs2 : Reg)
  /-- `XOR Rd,Rs1,Rs2` (R135) -/
  | xor (rd rs1 rs2 : Reg)
  /-- `ADDL Rd,Rs1,#imm` (R136) -/
  | addl (rd rs1 : Reg) (imm : Word)
  /-- `SUBL Rd,Rs1,#imm` (R137) -/
  | subl (rd rs1 : Reg) (imm : Word)
  /-- `MUL Rd,Rs1,Rs2` (R150) -/
  | mul (rd rs1 rs2 : Reg)
  /-- `CMP Rs1,Rs2` (R139) -/
  | cmp (rs1 rs2 : Reg)
  /-- `MOVC Rd,#imm` (R138) -/
  | movc (rd : Reg) (imm : Word)
  /-- `DIV Rd,Rs1,Rs2` (R151) -/
  | div (rd rs1 rs2 : Reg)
  /-- `BZ #imm` (R171) -/
  | bz (imm : Word)
  /-- `BNZ #imm` (R172) -/
  | bnz (imm : Word)
  /-- `LOAD Rd,Rs1,#imm` (R161) -/
  | load (rd rs1 : Reg) (imm : Word)
  /-- `STORE Rs1,Rs2,#imm`, data register first (R163) -/
  | store (rs1 rs2 : Reg) (imm : Word)
  /-- `LDR Rd,Rs1,Rs2` (R162) -/
  | ldr (rd rs1 rs2 : Reg)
  /-- `STR Rs1,Rs2,Rs3`, data register first (R164) -/
  | str (rs1 rs2 rs3 : Reg)
  /-- `HALT` (R181) -/
  | halt
  deriving DecidableEq, Repr

end Sys2Proof
end

