-- ==== Sys2Proof/Record.lean ====
section
/-! DEFINITION. The instruction record as a structure (30_encoding.md R60): the enumerated opcode, the register and
immediate fields, the formats (R62) and the display mnemonics (R66). -/

namespace Sys2Proof

/-- The enumerated opcode (R60), in the order of R66. -/
inductive Opcode where
  | nop | add | sub | and | or | xor | addl | subl | mul | cmp | movc | div
  | bz | bnz | load | store | ldr | str | halt
  deriving DecidableEq, Repr

/-- The eight formats of R62. -/
inductive Format where
  | n | r3 | ri | mi | c | b | si | s3
  deriving DecidableEq, Repr

/-- R62, last column. -/
def Opcode.format : Opcode → Format
  | .nop => .n
  | .add => .r3
  | .sub => .r3
  | .and => .r3
  | .or => .r3
  | .xor => .r3
  | .addl => .ri
  | .subl => .ri
  | .mul => .r3
  | .cmp => .c
  | .movc => .mi
  | .div => .r3
  | .bz => .b
  | .bnz => .b
  | .load => .ri
  | .store => .si
  | .ldr => .r3
  | .str => .s3
  | .halt => .n

/-- The display mnemonic: the text of R66, a function of the opcode, carried nowhere in the hardware (R20, R60). -/
def Opcode.mnemonic : Opcode → String
  | .nop => "NOP"
  | .add => "ADD"
  | .sub => "SUB"
  | .and => "AND"
  | .or => "OR"
  | .xor => "XOR"
  | .addl => "ADDL"
  | .subl => "SUBL"
  | .mul => "MUL"
  | .cmp => "CMP"
  | .movc => "MOVC"
  | .div => "DIV"
  | .bz => "BZ"
  | .bnz => "BNZ"
  | .load => "LOAD"
  | .store => "STORE"
  | .ldr => "LDR"
  | .str => "STR"
  | .halt => "HALT"

/-- An instruction record (R60): every field the latches carry and the trace outputs export (R20, R33). Fields that
the opcode's format does not use may hold anything and are ignored (R65). -/
structure Record where
  op : Opcode
  rd : Reg
  rs1 : Reg
  rs2 : Reg
  rs3 : Reg
  imm : Word
  deriving DecidableEq, Repr

/-- Which record fields a format uses (R62, second column). -/
structure FieldUse where
  rd : Bool
  rs1 : Bool
  rs2 : Bool
  rs3 : Bool
  imm : Bool
  deriving DecidableEq, Repr

/-- R62, second column. -/
def Format.uses : Format → FieldUse
  | .n  => ⟨false, false, false, false, false⟩
  | .r3 => ⟨true, true, true, false, false⟩
  | .ri => ⟨true, true, false, false, true⟩
  | .mi => ⟨true, false, false, false, true⟩
  | .c  => ⟨false, true, true, false, false⟩
  | .b  => ⟨false, false, false, false, true⟩
  | .si => ⟨false, true, true, false, true⟩
  | .s3 => ⟨false, true, true, true, false⟩

end Sys2Proof
end

