-- ==== Sys2Proof/WellFormed.lean ====
section
/-! DEFINITION. The static checks: legal record words (30_encoding.md R69), canonical records (R65), legal tables
(R72), legal `initialize` arguments (60_exceptions.md R193), the canonical form of a memory. A term of `Instr` needs
no check of its own: its operand types are the record's fields, all of whose values are legal (R63, R64). -/

namespace Sys2Proof

/-- `w[63:56] <= 0x12` (R69). -/
def opcodeLegal (w : RecordWord) : Bool := decide ((w.extractLsb' 56 8).toNat ≤ 0x12)

/-- `w[39:32] == 0` (R61, R69). -/
def reservedByteZero (w : RecordWord) : Bool := w.extractLsb' 32 8 == 0#8

/-- A record is legal unless its opcode is above `0x12` or its reserved byte is not 0 (R69). -/
def legalWord (w : RecordWord) : Bool := opcodeLegal w && reservedByteZero w

/-- The canonical encoding has every unused field 0 (R65). -/
def Record.canonical (r : Record) : Bool :=
  (r.op.format.uses.rd || r.rd == 0#4) && (r.op.format.uses.rs1 || r.rs1 == 0#4) &&
  (r.op.format.uses.rs2 || r.rs2 == 0#4) && (r.op.format.uses.rs3 || r.rs3 == 0#4) &&
  (r.op.format.uses.imm || r.imm == 0#32)

/-- `PC_BASE >= 0` and `PC_BASE + 4*N <= 2^31 - 1` (R6, R72). -/
def placementLegal (pcBase : Int) (n : Nat) : Bool :=
  decide (0 ≤ pcBase) &&
  decide (pcBase + (Config.instructionWidth : Int) * (n : Int) ≤ Config.maxProgramEnd)

/-- A legal instruction table (R72). -/
def legalTable (table : List RecordWord) (pcBase : Int) : Bool :=
  !table.isEmpty && table.all legalWord && placementLegal pcBase table.length

/-- `1 <= DMEM_WORDS <= 2^31` (R193). -/
def dmemWordsLegal (n : Nat) : Bool := decide (1 ≤ n) && decide (n ≤ Config.maxDmemWords)

/-- Canonical from word index `lo` on: indices strictly rising, all at least `lo`, no entry 0 (what an unlisted index
reads as). -/
def Memory.wfFrom : Nat → Memory → Bool
  | _, [] => true
  | lo, (a, v) :: rest => decide (lo ≤ a) && v != 0#32 && Memory.wfFrom (a + 1) rest

/-- The canonical form: equal memories are equal lists (notes/assumptions/5.md). -/
def Memory.wf (m : Memory) : Bool := Memory.wfFrom 0 m

/-- Every listed word index is below `n`: nothing is stored outside the data space (R47). -/
def Memory.below (n : Nat) (m : Memory) : Bool := m.all fun entry => decide (entry.1 < n)

end Sys2Proof
end

