-- ==== Sys2Proof/Decode.lean ====
section
/-! DEFINITION. The record's bit packing (30_encoding.md R61), opcode numbers (R66), decoding (R69) and encoding. The
packing and the numbers are the spec's own (D14). -/

namespace Sys2Proof

/-- Why a word is no legal record (R69). -/
inductive DecodeError where
  /-- `w[63:56] > 0x12`: a reserved opcode number. -/
  | reservedOpcode (op : BitVec 8)
  /-- `w[39:32] != 0`. -/
  | reservedByte (b : BitVec 8)
  deriving DecidableEq, Repr

/-- `w[63:56]` (R61). -/
def opField (w : RecordWord) : BitVec 8 := w.extractLsb' 56 8
/-- `w[55:52]` (R61). -/
def rdField (w : RecordWord) : Reg := w.extractLsb' 52 4
/-- `w[51:48]` (R61). -/
def rs1Field (w : RecordWord) : Reg := w.extractLsb' 48 4
/-- `w[47:44]` (R61). -/
def rs2Field (w : RecordWord) : Reg := w.extractLsb' 44 4
/-- `w[43:40]` (R61). -/
def rs3Field (w : RecordWord) : Reg := w.extractLsb' 40 4
/-- `w[39:32]`, reserved (R61). -/
def zeroField (w : RecordWord) : BitVec 8 := w.extractLsb' 32 8
/-- `w[31:0]`, two's complement (R61, R63). -/
def immField (w : RecordWord) : Word := w.extractLsb' 0 32

/-- The opcode numbers of R66. -/
def Opcode.code : Opcode → BitVec 8
  | .nop => 0x00#8
  | .add => 0x01#8
  | .sub => 0x02#8
  | .and => 0x03#8
  | .or => 0x04#8
  | .xor => 0x05#8
  | .addl => 0x06#8
  | .subl => 0x07#8
  | .mul => 0x08#8
  | .cmp => 0x09#8
  | .movc => 0x0A#8
  | .div => 0x0B#8
  | .bz => 0x0C#8
  | .bnz => 0x0D#8
  | .load => 0x0E#8
  | .store => 0x0F#8
  | .ldr => 0x10#8
  | .str => 0x11#8
  | .halt => 0x12#8

/-- The opcode of a number; numbers `0x13` to `0xFF` are reserved (R66, R69). -/
def Opcode.ofCode (c : BitVec 8) : Option Opcode :=
  match c.toNat with
  | 0x00 => some .nop
  | 0x01 => some .add
  | 0x02 => some .sub
  | 0x03 => some .and
  | 0x04 => some .or
  | 0x05 => some .xor
  | 0x06 => some .addl
  | 0x07 => some .subl
  | 0x08 => some .mul
  | 0x09 => some .cmp
  | 0x0A => some .movc
  | 0x0B => some .div
  | 0x0C => some .bz
  | 0x0D => some .bnz
  | 0x0E => some .load
  | 0x0F => some .store
  | 0x10 => some .ldr
  | 0x11 => some .str
  | 0x12 => some .halt
  | _ => none

/-- The record in a word of the fetch port, or by name why the word is illegal (R61, R69). -/
def decodeRecord (w : RecordWord) : Except DecodeError Record :=
  match Opcode.ofCode (opField w) with
  | none => .error (.reservedOpcode (opField w))
  | some op =>
    if zeroField w = 0#8 then
      .ok { op := op, rd := rdField w, rs1 := rs1Field w, rs2 := rs2Field w, rs3 := rs3Field w, imm := immField w }
    else .error (.reservedByte (zeroField w))

/-- The instruction of a record: the fields its format uses, the others ignored (R62, R65). -/
def Record.instr (r : Record) : Instr :=
  match r.op with
  | .nop => .nop
  | .add => .add r.rd r.rs1 r.rs2
  | .sub => .sub r.rd r.rs1 r.rs2
  | .and => .and r.rd r.rs1 r.rs2
  | .or => .or r.rd r.rs1 r.rs2
  | .xor => .xor r.rd r.rs1 r.rs2
  | .addl => .addl r.rd r.rs1 r.imm
  | .subl => .subl r.rd r.rs1 r.imm
  | .mul => .mul r.rd r.rs1 r.rs2
  | .cmp => .cmp r.rs1 r.rs2
  | .movc => .movc r.rd r.imm
  | .div => .div r.rd r.rs1 r.rs2
  | .bz => .bz r.imm
  | .bnz => .bnz r.imm
  | .load => .load r.rd r.rs1 r.imm
  | .store => .store r.rs1 r.rs2 r.imm
  | .ldr => .ldr r.rd r.rs1 r.rs2
  | .str => .str r.rs1 r.rs2 r.rs3
  | .halt => .halt

/-- The decoder: the instruction of a record word, or by name why there is none. Total on every word (R69). -/
def decode (w : RecordWord) : Except DecodeError Instr :=
  match decodeRecord w with
  | .ok r => .ok r.instr
  | .error e => .error e

/-- A record packed for the fetch port, the reserved byte 0 (R61). -/
def Record.word (r : Record) : RecordWord :=
  r.op.code ++ r.rd ++ r.rs1 ++ r.rs2 ++ r.rs3 ++ 0x00#8 ++ r.imm

/-- The canonical record of an instruction: unused fields 0 (R62, R65). -/
def Instr.record : Instr → Record
  | .nop => ⟨.nop, 0, 0, 0, 0, 0⟩
  | .add rd rs1 rs2 => ⟨.add, rd, rs1, rs2, 0, 0⟩
  | .sub rd rs1 rs2 => ⟨.sub, rd, rs1, rs2, 0, 0⟩
  | .and rd rs1 rs2 => ⟨.and, rd, rs1, rs2, 0, 0⟩
  | .or rd rs1 rs2 => ⟨.or, rd, rs1, rs2, 0, 0⟩
  | .xor rd rs1 rs2 => ⟨.xor, rd, rs1, rs2, 0, 0⟩
  | .addl rd rs1 imm => ⟨.addl, rd, rs1, 0, 0, imm⟩
  | .subl rd rs1 imm => ⟨.subl, rd, rs1, 0, 0, imm⟩
  | .mul rd rs1 rs2 => ⟨.mul, rd, rs1, rs2, 0, 0⟩
  | .cmp rs1 rs2 => ⟨.cmp, 0, rs1, rs2, 0, 0⟩
  | .movc rd imm => ⟨.movc, rd, 0, 0, 0, imm⟩
  | .div rd rs1 rs2 => ⟨.div, rd, rs1, rs2, 0, 0⟩
  | .bz imm => ⟨.bz, 0, 0, 0, 0, imm⟩
  | .bnz imm => ⟨.bnz, 0, 0, 0, 0, imm⟩
  | .load rd rs1 imm => ⟨.load, rd, rs1, 0, 0, imm⟩
  | .store rs1 rs2 imm => ⟨.store, 0, rs1, rs2, 0, imm⟩
  | .ldr rd rs1 rs2 => ⟨.ldr, rd, rs1, rs2, 0, 0⟩
  | .str rs1 rs2 rs3 => ⟨.str, 0, rs1, rs2, rs3, 0⟩
  | .halt => ⟨.halt, 0, 0, 0, 0, 0⟩

/-- The encoder: the canonical 64-bit record of an instruction (R61, R65). Every instruction is one record (R68). -/
def encode (i : Instr) : RecordWord := i.record.word

/-- A word of `nbits` bits numbered as spec/opcode_table.json numbers them: one record, bit 0 least significant; the
bits above `nbits` are 0. -/
def tableWord (nbits w : Nat) : RecordWord := BitVec.ofNat 64 (w % 2 ^ nbits)

/-- The instruction the decoder reads from a word of the opcode table; none where it refuses. -/
def decodeTableWord (nbits w : Nat) : Option Instr :=
  match decode (tableWord nbits w) with
  | .ok i => some i
  | .error _ => none

end Sys2Proof
end

