-- ==== Sys2Proof/Machine/State.lean ====
section
/-! DEFINITION. Every piece of state of 10_state.md, the reasons a step can stop, and the machine right after reset
(R28). -/

namespace Sys2Proof.Machine

/-- `STATUS` (R16). -/
inductive Status where
  | running | halted | faulted
  deriving DecidableEq, Repr

/-- `FAULT.kind` (R17, R190); kind 3 is never produced, so it has no constructor. -/
inductive FaultKind where
  /-- 0: no fault -/
  | none
  /-- 1: division by zero (R191) -/
  | arithmetic
  /-- 2: effective address outside data memory (R192) -/
  | address
  deriving DecidableEq, Repr

/-- The fault record `FAULT` (R17). -/
structure FaultRecord where
  kind : FaultKind
  pc : Word
  op : BitVec 8
  deriving DecidableEq, Repr

/-- What an occupied latch holds (R20). `pc` and `record` are written by Fetch and never changed; `v1`, `v2`, `v3`
by Decode at issue; `result` and `addr` by Execute, `result` of a load by Memory. A field no phase has written for
this instruction is absent (93_implementation_defined.md U12; notes/assumptions/8.md). -/
structure InstructionContext where
  pc : Word
  record : Record
  v1 : Option Word := none
  v2 : Option Word := none
  v3 : Option Word := none
  result : Option Word := none
  addr : Option Word := none
  deriving DecidableEq, Repr

/-- A stage latch `LD`, `LX`, `LM` or `LW` (R20, R21): `valid == 0` is `content = none`. -/
structure Latch where
  content : Option InstructionContext
  stall : Bool
  deriving DecidableEq, Repr

/-- The fetch latch `LF` (R21): a copy of the instruction most recently fetched, absent before the first fetch
(R28: unspecified; notes/assumptions/9.md), and its stall flag. Its `valid` bit is `State.fen` (R18). -/
structure FetchLatch where
  last : Option InstructionContext
  stall : Bool
  deriving DecidableEq, Repr

/-- The whole machine (10_state.md), with the parameters and the instruction table of the run, which nothing writes
(R24, R27; notes/assumptions/1.md). -/
structure State where
  /-- general registers (R10) -/
  x : Vector Word 16
  /-- the scoreboard (R11) -/
  pend : Vector Bool 16
  /-- the zero flag `Z` (R12) -/
  z : Bool
  /-- the program counter: the address of the next record to fetch (R13) -/
  pc : Word
  /-- `CLK`, completed ticks (R14) -/
  clk : BitVec 64
  /-- `RETIRED` (R15) -/
  retired : BitVec 64
  /-- `STATUS` (R16) -/
  status : Status
  /-- `FAULT` (R17) -/
  fault : FaultRecord
  /-- `FEN`, fetch enable, and `LF.valid` (R18, R21) -/
  fen : Bool
  /-- `REDIR`, set by a taken branch for the Fetch phase of the same tick (R19) -/
  redir : Bool
  /-- `LF` (R21) -/
  lf : FetchLatch
  /-- `LD` (R21) -/
  ld : Latch
  /-- `LX` (R21) -/
  lx : Latch
  /-- `LM` (R21) -/
  lm : Latch
  /-- `LW` (R21) -/
  lw : Latch
  /-- `DMEM` (R23) -/
  dmem : Memory
  /-- `PC_BASE`, `DMEM_WORDS`, `DMEM_INIT` (R6, R27) -/
  params : Params
  /-- the instruction table: record `k` stands at `PC_BASE + 4*k` (R24, R46) -/
  table : List RecordWord
  deriving DecidableEq, Repr

/-- Why the model stops where the spec gives no effect at all. ArithmeticFault and AddressFault are not here: their
entry is a next state with `STATUS` Faulted (R196; notes/assumptions/10.md). -/
inductive Fault where
  /-- Raised by the Memory phase of a load and the Writeback phase of a store whose `addr` names no word of data
  memory; R8 requires `0 <= addr < DMEM_WORDS` there and R160 has checked it, so no run from `initialize` raises it
  (notes/assumptions/7.md). Safe. -/
  | absentDataWord (index : Nat)
  deriving DecidableEq, Repr

/-- Why the model refuses. -/
inductive Refusal where
  /-- Raised by an arm of `exec` whose instruction has no meaning yet. No arm is left so. Safe. -/
  | notModelled (mnemonic : String)
  /-- Raised by the Fetch phase for a word that is no legal record (93_implementation_defined.md U9: refuse).
  `initialize` refuses such a table, so no run from it raises this (notes/assumptions/6.md). Safe. -/
  | illegalRecord (word : RecordWord)
  deriving DecidableEq, Repr

/-- The answer of an instruction, a phase or a step. -/
abbrev Answer := Host.Outcome State Fault Refusal

/-- An empty latch (R28). -/
def Latch.empty : Latch := { content := none, stall := false }

/-- The state after `initialize` succeeds, equivalently after reset (R28, R220), for a run's parameters and table. -/
def State.initial (params : Params) (table : List RecordWord) : State :=
  { x := Vector.replicate 16 0#32
    pend := Vector.replicate 16 false
    z := false
    pc := params.pcBase
    clk := 0#64
    retired := 0#64
    status := .running
    fault := { kind := .none, pc := 0#32, op := 0#8 }
    fen := true
    redir := false
    lf := { last := none, stall := false }
    ld := Latch.empty
    lx := Latch.empty
    lm := Latch.empty
    lw := Latch.empty
    dmem := params.dmemInit
    params := params
    table := table }

/-- The machine right after reset (R28) with the spec's default parameters (R6; notes/assumptions/3.md) and no program
loaded (notes/assumptions/4.md). -/
def State.reset : State := State.initial Params.default []

end Sys2Proof.Machine
end

