-- ==== Sys2Proof/Machine/Ops.lean ====
section
/-! DEFINITION. The named operations over registers, scoreboard, memory, latches and the instruction table, and taking
a fault. Every phase and every meaning is written over these. -/

namespace Sys2Proof.Machine

/-! ## Sequencing -/

/-- Continue with `f` from a next state; a stop stays the stop. The phases of a tick act one after the other on one
shared state (R80). -/
def andThen (o : Answer) (f : State → Answer) : Answer :=
  match o with
  | .next s => f s
  | .fault r => .fault r
  | .refused r => .refused r

/-! ## Arithmetic -/

/-- `wrap32(n)` (R7). -/
def wrap32 (n : Int) : Word := BitVec.ofInt 32 n

/-! ## General registers and scoreboard -/

/-- `x[r]` (R8, R10): no register is hardwired. -/
def State.reg (s : State) (r : Reg) : Word := s.x[r.toNat]'(r.isLt)

/-- `x[r] <- v` (R8, R10). -/
def State.writeReg (s : State) (r : Reg) (v : Word) : State := { s with x := s.x.set r.toNat v r.isLt }

/-- `pend[r]` (R8, R11). -/
def State.pending (s : State) (r : Reg) : Bool := s.pend[r.toNat]'(r.isLt)

/-- `pend[r] <- b` (R11). -/
def State.setPending (s : State) (r : Reg) (b : Bool) : State := { s with pend := s.pend.set r.toNat b r.isLt }

/-- `LD.stall <- b; LF.stall <- b` (R85, R95, R98). -/
def State.setStalls (s : State) (b : Bool) : State :=
  { s with ld := { s.ld with stall := b }, lf := { s.lf with stall := b } }

/-! ## Data memory -/

/-- The word at index `a`; an unlisted index reads 0, the default of `DMEM_INIT` (R28). -/
def Memory.read (m : Memory) (a : Nat) : Word :=
  match m with
  | [] => 0#32
  | (b, v) :: rest => if a = b then v else Memory.read rest a

/-- Store `v` at index `a` and change no other word (R42), keeping the canonical form: storing 0 removes the entry. -/
def Memory.write (m : Memory) (a : Nat) (v : Word) : Memory :=
  match m with
  | [] => if v = 0#32 then [] else [(a, v)]
  | (b, w) :: rest =>
    if a < b then (if v = 0#32 then (b, w) :: rest else (a, v) :: (b, w) :: rest)
    else if a = b then (if v = 0#32 then rest else (a, v) :: rest)
    else (b, w) :: Memory.write rest a v

/-- The memory whose words from index `a` on are the list's, all others 0. -/
def Memory.ofWordsFrom (a : Nat) (words : List Word) : Memory :=
  match words with
  | [] => []
  | v :: rest =>
    if v = 0#32 then Memory.ofWordsFrom (a + 1) rest else (a, v) :: Memory.ofWordsFrom (a + 1) rest

/-- `DMEM[a]` as plain data: what reading word `a` gives (R41). -/
def State.word (s : State) (a : Nat) : Word := Memory.read s.dmem a

/-- Word index `a` exists: `a < DMEM_WORDS` (R47). -/
def State.hasWord (s : State) (a : Nat) : Bool := decide (a < s.params.dmemWords)

/-- `DMEM[a] <- v`, changing no other word (R42). -/
def State.storeWord (s : State) (a : Nat) (v : Word) : State := { s with dmem := Memory.write s.dmem a v }

/-! ## The instruction table -/

/-- Record number `k` of a pc value: `(a - PC_BASE) / 4` when that difference is a non-negative multiple of 4 (R46). -/
def recordIndex (pcBase a : Word) : Option Nat :=
  if 0 ≤ a.toInt - pcBase.toInt ∧ (a.toInt - pcBase.toInt) % 4 = 0 then
    some ((a.toInt - pcBase.toInt) / 4).toNat
  else none

/-- `Rec(a)` over a table: its record word, or none below `PC_BASE`, misaligned, or past the last record (R46). -/
def recordIn (pcBase : Word) (table : List RecordWord) (a : Word) : Option RecordWord :=
  match recordIndex pcBase a with
  | none => none
  | some k => table[k]?

/-- `Rec(a)` (R8, R46). -/
def State.recordAt (s : State) (a : Word) : Option RecordWord := recordIn s.params.pcBase s.table a

/-- `pc + 4`, wrapped (R13, R104). -/
def nextPc (pc : Word) : Word := wrap32 (pc.toInt + Config.instructionWidth)

/-! ## Writeback -/

/-- `RETIRED <- RETIRED + 1` (R86). -/
def State.countRetired (s : State) : State := { s with retired := s.retired + 1#64 }

/-- `STATUS <- Halted` (R89). -/
def State.setHalted (s : State) : State := { s with status := .halted }

/-- `LW <- empty` (R83). -/
def State.emptyWriteback (s : State) : State := { s with lw := { s.lw with content := none } }

/-! ## Memory phase -/

/-- `LW <- c; LM <- empty` (R88). -/
def State.toWriteback (s : State) (c : InstructionContext) : State :=
  { s with lw := { s.lw with content := some c }, lm := { s.lm with content := none } }

/-! ## Execute -/

/-- `REDIR <- 0` (R90). -/
def State.clearRedirect (s : State) : State := { s with redir := false }

/-- `Z <- b` (R12). -/
def State.setZ (s : State) (b : Bool) : State := { s with z := b }

/-- `LM <- c; LX <- empty` (R90). -/
def State.toMemory (s : State) (c : InstructionContext) : State :=
  { s with lm := { s.lm with content := some c }, lx := { s.lx with content := none } }

/-- The taken-branch actions: `pc <- target; REDIR <- 1; FEN <- 1; LD <- empty; LD.stall <- 0; LF.stall <- 0`
(R92, R170). -/
def State.redirect (s : State) (target : Word) : State :=
  { s with pc := target, redir := true, fen := true, ld := Latch.empty, lf := { s.lf with stall := false } }

/-- TAKING A FAULT (R196): `STATUS <- Faulted; FAULT <- (kind, c.pc, c.op)`, nothing else; control goes nowhere, and
no instruction returns from it (R197). The tick stops there: `Machine/Pipeline.lean` runs no later phase. -/
def State.enterFault (s : State) (kind : FaultKind) (c : InstructionContext) : State :=
  { s with status := .faulted, fault := { kind := kind, pc := c.pc, op := c.record.op.code } }

/-! ## Decode and Fetch -/

/-- `LX <- c; LD <- empty` with the stall flags cleared (R98). -/
def State.issue (s : State) (c : InstructionContext) : State :=
  { s with lx := { s.lx with content := some c }, ld := Latch.empty, lf := { s.lf with stall := false } }

/-- What Fetch writes into `LF` and `LD` for a record at `pc` (R104). -/
def fetchedContext (pc : Word) (r : Record) : InstructionContext := { pc := pc, record := r }

/-- Fetch of a record: fill `LF` and `LD`, advance the pc, shut fetch on HALT (R104). -/
def State.fetched (s : State) (r : Record) : State :=
  { s with
    lf := { last := some (fetchedContext s.pc r), stall := false }
    ld := { content := some (fetchedContext s.pc r), stall := false }
    pc := nextPc s.pc
    fen := if r.op = .halt then false else s.fen }

/-- `FEN <- 0` (R105). -/
def State.shutFetch (s : State) : State := { s with fen := false }

/-- `CLK <- CLK + 1; REDIR <- 0` (R106). -/
def State.endTick (s : State) : State := { s with clk := s.clk + 1#64, redir := false }

end Sys2Proof.Machine
end

