-- ==== Sys2Proof/Machine/Operands.lean ====
section
/-! DEFINITION. The operand roles of every instruction (30_encoding.md R67), operand reading (40_pipeline_control.md
R96), the hazard check (R94), and the load/store address unit (43_load_store.md R160). -/

namespace Sys2Proof.Machine

/-- The register read into `v1`, if the instruction reads one (R67). -/
def source1 : Instr → Option Reg
  | .nop => none
  | .add _ rs1 _ => some rs1
  | .sub _ rs1 _ => some rs1
  | .and _ rs1 _ => some rs1
  | .or _ rs1 _ => some rs1
  | .xor _ rs1 _ => some rs1
  | .addl _ rs1 _ => some rs1
  | .subl _ rs1 _ => some rs1
  | .mul _ rs1 _ => some rs1
  | .cmp rs1 _ => some rs1
  | .movc _ _ => none
  | .div _ rs1 _ => some rs1
  | .bz _ => none
  | .bnz _ => none
  | .load _ rs1 _ => some rs1
  | .store rs1 _ _ => some rs1
  | .ldr _ rs1 _ => some rs1
  | .str rs1 _ _ => some rs1
  | .halt => none

/-- The register read into `v2`, if the instruction reads one (R67). -/
def source2 : Instr → Option Reg
  | .nop => none
  | .add _ _ rs2 => some rs2
  | .sub _ _ rs2 => some rs2
  | .and _ _ rs2 => some rs2
  | .or _ _ rs2 => some rs2
  | .xor _ _ rs2 => some rs2
  | .addl _ _ _ => none
  | .subl _ _ _ => none
  | .mul _ _ rs2 => some rs2
  | .cmp _ rs2 => some rs2
  | .movc _ _ => none
  | .div _ _ rs2 => some rs2
  | .bz _ => none
  | .bnz _ => none
  | .load _ _ _ => none
  | .store _ rs2 _ => some rs2
  | .ldr _ _ rs2 => some rs2
  | .str _ rs2 _ => some rs2
  | .halt => none

/-- The register read into `v3`: only STR uses `rs3` (R67, R164). -/
def source3 : Instr → Option Reg
  | .nop => none
  | .add _ _ _ => none
  | .sub _ _ _ => none
  | .and _ _ _ => none
  | .or _ _ _ => none
  | .xor _ _ _ => none
  | .addl _ _ _ => none
  | .subl _ _ _ => none
  | .mul _ _ _ => none
  | .cmp _ _ => none
  | .movc _ _ => none
  | .div _ _ _ => none
  | .bz _ => none
  | .bnz _ => none
  | .load _ _ _ => none
  | .store _ _ _ => none
  | .ldr _ _ _ => none
  | .str _ _ rs3 => some rs3
  | .halt => none

/-- The destination register of a register-producing instruction (R67). -/
def destination : Instr → Option Reg
  | .nop => none
  | .add rd _ _ => some rd
  | .sub rd _ _ => some rd
  | .and rd _ _ => some rd
  | .or rd _ _ => some rd
  | .xor rd _ _ => some rd
  | .addl rd _ _ => some rd
  | .subl rd _ _ => some rd
  | .mul rd _ _ => some rd
  | .cmp _ _ => none
  | .movc rd _ => some rd
  | .div rd _ _ => some rd
  | .bz _ => none
  | .bnz _ => none
  | .load rd _ _ => some rd
  | .store _ _ _ => none
  | .ldr rd _ _ => some rd
  | .str _ _ _ => none
  | .halt => none

/-- Store-class: STORE and STR (R67). -/
def storeClass : Instr → Bool
  | .nop => false
  | .add _ _ _ => false
  | .sub _ _ _ => false
  | .and _ _ _ => false
  | .or _ _ _ => false
  | .xor _ _ _ => false
  | .addl _ _ _ => false
  | .subl _ _ _ => false
  | .mul _ _ _ => false
  | .cmp _ _ => false
  | .movc _ _ => false
  | .div _ _ _ => false
  | .bz _ => false
  | .bnz _ => false
  | .load _ _ _ => false
  | .store _ _ _ => true
  | .ldr _ _ _ => false
  | .str _ _ _ => true
  | .halt => false

/-- Load-class: LOAD and LDR (R9, R67). -/
def loadClass : Instr → Bool
  | .nop => false
  | .add _ _ _ => false
  | .sub _ _ _ => false
  | .and _ _ _ => false
  | .or _ _ _ => false
  | .xor _ _ _ => false
  | .addl _ _ _ => false
  | .subl _ _ _ => false
  | .mul _ _ _ => false
  | .cmp _ _ => false
  | .movc _ _ => false
  | .div _ _ _ => false
  | .bz _ => false
  | .bnz _ => false
  | .load _ _ _ => true
  | .store _ _ _ => false
  | .ldr _ _ _ => true
  | .str _ _ _ => false
  | .halt => false

/-- The instruction an occupied latch holds. -/
def InstructionContext.instr (c : InstructionContext) : Instr := c.record.instr

/-! ## The latch fields the Execute, Memory and Writeback phases read

A field no phase has written reads as a free value (93_implementation_defined.md U12; notes/assumptions/8.md); no rule
reads one. -/

/-- `L.v1` (R20). -/
def InstructionContext.operand1 (c : InstructionContext) : Word := c.v1.getD (Config.unwrittenField 1)

/-- `L.v2` (R20). -/
def InstructionContext.operand2 (c : InstructionContext) : Word := c.v2.getD (Config.unwrittenField 2)

/-- `L.v3` (R20). -/
def InstructionContext.operand3 (c : InstructionContext) : Word := c.v3.getD (Config.unwrittenField 3)

/-- `L.result` (R20). -/
def InstructionContext.resultField (c : InstructionContext) : Word := c.result.getD (Config.unwrittenField 4)

/-- `L.addr` (R20), as the word index it names (R41). -/
def InstructionContext.addrField (c : InstructionContext) : Nat := (c.addr.getD (Config.unwrittenField 5)).toNat

/-! ## Decode: hazard check and operand read -/

/-- An operand field that the instruction uses names a pending register (R94). -/
def State.pendingOperand (s : State) (r : Option Reg) : Bool :=
  match r with
  | none => false
  | some r => s.pending r

/-- `hazard(i)`: a source that `i` reads is pending, or the destination of a register-producing `i` is (R94). -/
def State.hazard (s : State) (i : Instr) : Bool :=
  s.pendingOperand (source1 i) || s.pendingOperand (source2 i) || s.pendingOperand (source3 i) ||
  s.pendingOperand (destination i)

/-- One `v` field at issue: the register the instruction reads there, else the field is not written (R96). -/
def State.readOperand (s : State) (r : Option Reg) (old : Option Word) : Option Word :=
  match r with
  | none => old
  | some r => some (s.reg r)

/-- The operand read of the Decode phase (R96). -/
def State.readOperands (s : State) (c : InstructionContext) : InstructionContext :=
  { c with
    v1 := s.readOperand (source1 c.instr) c.v1
    v2 := s.readOperand (source2 c.instr) c.v2
    v3 := s.readOperand (source3 c.instr) c.v3 }

/-- `pend[rd] <- 1` for a register-producing instruction (R97). -/
def State.markDestination (s : State) (i : Instr) : State :=
  match destination i with
  | none => s
  | some rd => s.setPending rd true

/-! ## The load/store address unit -/

/-- `EA = sext_32(base) + sext_32(off)`, a mathematical integer, not wrapped (R160). -/
def effectiveAddress (base off : Word) : Int := base.toInt + off.toInt

/-- `0 <= EA < DMEM_WORDS` (R160). -/
def addressInRange (dmemWords : Nat) (ea : Int) : Bool := decide (0 ≤ ea) && decide (ea < (dmemWords : Int))

end Sys2Proof.Machine
end

