-- ==== Sys2Proof/Machine/Flags.lean ====
section
/-! DEFINITION. The zero flag's computation (10_state.md R12, 41_integer_alu.md R140), and the Execute phase's answer
for one instruction as the tuple of 40_pipeline_control.md R110. -/

namespace Sys2Proof.Machine

/-- `Z <- (result == 0)`, from the 32-bit result after wrapping (R12, R140). -/
def zeroFlag (result : Word) : Bool := result == 0#32

/-- `Z <- (v1 == v2)`, CMP (R12, R139). -/
def equalFlag (v1 v2 : Word) : Bool := v1 == v2

/-- Which instructions write `Z` (R12, R67). -/
def writesFlag : Instr → Bool
  | .nop => false
  | .add _ _ _ => true
  | .sub _ _ _ => true
  | .and _ _ _ => true
  | .or _ _ _ => true
  | .xor _ _ _ => true
  | .addl _ _ _ => true
  | .subl _ _ _ => true
  | .mul _ _ _ => true
  | .cmp _ _ => true
  | .movc _ _ => true
  | .div _ _ _ => true
  | .bz _ => false
  | .bnz _ => false
  | .load _ _ _ => false
  | .store _ _ _ => false
  | .ldr _ _ _ => false
  | .str _ _ _ => false
  | .halt => false

/-- What the Execute phase computes when no fault is raised: (result, addr, newZ, taken), each absent where the
opcode's rule does not produce it (R90, R110). -/
structure Executed where
  result : Option Word := none
  addr : Option Word := none
  newZ : Option Bool := none
  /-- the target of a taken branch -/
  taken : Option Word := none
  deriving DecidableEq, Repr

/-- The Execute dispatch's answer: a fault or the tuple (R110). -/
inductive ExecuteAnswer where
  | fault (kind : FaultKind)
  | ok (e : Executed)
  deriving DecidableEq, Repr

/-- An arithmetic result, with the flag it sets (R12). -/
def arithmeticAnswer (result : Word) : ExecuteAnswer := .ok { result := some result, newZ := some (zeroFlag result) }

/-- The field a value replaces when the rule produces it (R90). -/
def produced (new old : Option Word) : Option Word :=
  match new with
  | none => old
  | some v => some v

/-- `Z <- newZ` where the rule says so (R90). -/
def State.updateZ (s : State) (newZ : Option Bool) : State :=
  match newZ with
  | none => s
  | some b => s.setZ b

/-- The taken-branch actions where the branch is taken (R92). -/
def State.updateBranch (s : State) (taken : Option Word) : State :=
  match taken with
  | none => s
  | some target => s.redirect target

/-- The completion of Execute without a fault: fields, `Z`, taken branch, then `LM <- i; LX <- empty` (R90). -/
def State.finishExecute (s : State) (c : InstructionContext) (e : Executed) : State :=
  ((s.updateZ e.newZ).updateBranch e.taken).toMemory
    { c with result := produced e.result c.result, addr := produced e.addr c.addr }

/-- The Execute phase of one instruction whose rule computes `unit` from its latch context and `Z`: nothing when `LX`
is empty; a fault enters `Faulted` and writes nothing else (R90, R91). -/
def State.execute (s : State) (unit : InstructionContext → ExecuteAnswer) : Answer :=
  match s.lx.content with
  | none => .next s
  | some c =>
    match unit c with
    | .fault kind => .next (s.enterFault kind c)
    | .ok e => .next (s.finishExecute c e)

end Sys2Proof.Machine
end

