-- ==== Sys2Proof/Machine/Branch.lean ====
section
/-! DEFINITION. BZ and BNZ (44_control_transfer.md R170 to R174). -/

namespace Sys2Proof.Machine

/-- `wrap32(i.pc + i.imm)`: the branch's own address plus the immediate; nothing checks it (R170, R174). -/
def branchTarget (pc imm : Word) : Word := wrap32 (pc.toInt + imm.toInt)

/-- A branch with its decision made: no result, no addr, `Z` unchanged (R171, R172). -/
def branchAnswer (taken : Bool) (imm : Word) (c : InstructionContext) : ExecuteAnswer :=
  .ok { taken := if taken then some (branchTarget c.pc imm) else none }

def bzUnit (imm : Word) (z : Bool) (c : InstructionContext) : ExecuteAnswer := branchAnswer z imm c
def bnzUnit (imm : Word) (z : Bool) (c : InstructionContext) : ExecuteAnswer := branchAnswer (!z) imm c

/-- BZ: taken when `Z == 1` (R171). -/
def execBz (imm : Word) (s : State) : Answer := s.execute (bzUnit imm s.z)

/-- BNZ: taken when `Z == 0` (R172). -/
def execBnz (imm : Word) (s : State) : Answer := s.execute (bnzUnit imm s.z)

end Sys2Proof.Machine
end

