-- ==== Sys2Proof/Machine/IntegerAlu.lean ====
section
/-! DEFINITION. The integer ALU family: ADD, SUB, AND, OR, XOR, ADDL, SUBL, MOVC, CMP (41_integer_alu.md R130 to R140).
A `…Result` is the value, a `…Unit` the Execute phase's answer, an `exec…` the meaning. -/

namespace Sys2Proof.Machine

/-- `wrap32(v1 + v2)` (R131, R136, R140). -/
def addResult (v1 v2 : Word) : Word := wrap32 (v1.toInt + v2.toInt)

/-- `wrap32(v1 - v2)`: first source minus second, source minus immediate (R132, R137, D33). -/
def subResult (v1 v2 : Word) : Word := wrap32 (v1.toInt - v2.toInt)

/-- `v1 & v2` (R133). -/
def andResult (v1 v2 : Word) : Word := v1 &&& v2

/-- `v1 | v2` (R134). -/
def orResult (v1 v2 : Word) : Word := v1 ||| v2

/-- `v1 ^ v2` (R135). -/
def xorResult (v1 v2 : Word) : Word := v1 ^^^ v2

def addUnit (c : InstructionContext) : ExecuteAnswer := arithmeticAnswer (addResult c.operand1 c.operand2)
def subUnit (c : InstructionContext) : ExecuteAnswer := arithmeticAnswer (subResult c.operand1 c.operand2)
def andUnit (c : InstructionContext) : ExecuteAnswer := arithmeticAnswer (andResult c.operand1 c.operand2)
def orUnit (c : InstructionContext) : ExecuteAnswer := arithmeticAnswer (orResult c.operand1 c.operand2)
def xorUnit (c : InstructionContext) : ExecuteAnswer := arithmeticAnswer (xorResult c.operand1 c.operand2)
def addlUnit (imm : Word) (c : InstructionContext) : ExecuteAnswer := arithmeticAnswer (addResult c.operand1 imm)
def sublUnit (imm : Word) (c : InstructionContext) : ExecuteAnswer := arithmeticAnswer (subResult c.operand1 imm)
def movcUnit (imm : Word) : ExecuteAnswer := arithmeticAnswer imm
def cmpUnit (c : InstructionContext) : ExecuteAnswer := .ok { newZ := some (equalFlag c.operand1 c.operand2) }

/-- ADD (R131). -/
def execAdd (s : State) : Answer := s.execute addUnit

/-- SUB (R132). -/
def execSub (s : State) : Answer := s.execute subUnit

/-- AND (R133). -/
def execAnd (s : State) : Answer := s.execute andUnit

/-- OR (R134). -/
def execOr (s : State) : Answer := s.execute orUnit

/-- XOR (R135). -/
def execXor (s : State) : Answer := s.execute xorUnit

/-- ADDL (R136). -/
def execAddl (imm : Word) (s : State) : Answer := s.execute (addlUnit imm)

/-- SUBL (R137). -/
def execSubl (imm : Word) (s : State) : Answer := s.execute (sublUnit imm)

/-- MOVC: its result is an arithmetic result and writes `Z` (R138, C4). -/
def execMovc (imm : Word) (s : State) : Answer := s.execute fun _ => movcUnit imm

/-- CMP: writes `Z` only, no result (R139). -/
def execCmp (s : State) : Answer := s.execute cmpUnit

end Sys2Proof.Machine
end

