-- ==== Sys2Proof/Machine/LoadStore.lean ====
section
/-! DEFINITION. LOAD, LDR, STORE, STR in the Execute phase: the effective address and its bounds check
(43_load_store.md R160 to R165). The word is read in the Memory phase and written in the Writeback phase
(`Machine/Pipeline.lean`; 20_memory.md R49). -/

namespace Sys2Proof.Machine

/-- The address unit: AddressFault outside `0 .. DMEM_WORDS-1`, else `addr <- EA`; `Z` unchanged (R160). `result` is
the store data, absent for a load. -/
def addressAnswer (dmemWords : Nat) (base off : Word) (result : Option Word) : ExecuteAnswer :=
  if addressInRange dmemWords (effectiveAddress base off) then
    .ok { result := result, addr := some (wrap32 (effectiveAddress base off)) }
  else .fault .address

def loadUnit (imm : Word) (dmemWords : Nat) (c : InstructionContext) : ExecuteAnswer :=
  addressAnswer dmemWords c.operand1 imm none

def ldrUnit (dmemWords : Nat) (c : InstructionContext) : ExecuteAnswer :=
  addressAnswer dmemWords c.operand1 c.operand2 none

def storeUnit (imm : Word) (dmemWords : Nat) (c : InstructionContext) : ExecuteAnswer :=
  addressAnswer dmemWords c.operand2 imm (some c.operand1)

def strUnit (dmemWords : Nat) (c : InstructionContext) : ExecuteAnswer :=
  addressAnswer dmemWords c.operand2 c.operand3 (some c.operand1)

/-- LOAD: base `v1`, offset `imm` (R161). -/
def execLoad (imm : Word) (s : State) : Answer := s.execute (loadUnit imm s.params.dmemWords)

/-- LDR: base `v1`, index `v2` (R162). -/
def execLdr (s : State) : Answer := s.execute (ldrUnit s.params.dmemWords)

/-- STORE: data `v1`, base `v2`, offset `imm` (R163). -/
def execStore (imm : Word) (s : State) : Answer := s.execute (storeUnit imm s.params.dmemWords)

/-- STR: data `v1`, base `v2`, index `v3` (R164). -/
def execStr (s : State) : Answer := s.execute (strUnit s.params.dmemWords)

end Sys2Proof.Machine
end

