-- ==== Sys2Proof/Machine/MultiplyDivide.lean ====
section
/-! DEFINITION. MUL and DIV (42_multiply_divide.md R150 to R152), one tick each. -/

namespace Sys2Proof.Machine

/-- `wrap32(v1 * v2)` (R150). -/
def mulResult (v1 v2 : Word) : Word := wrap32 (v1.toInt * v2.toInt)

/-- `wrap32(q)`, `q` the quotient rounded toward zero (R151, D19); used for a non-zero divisor only. -/
def divResult (v1 v2 : Word) : Word := wrap32 (v1.toInt.tdiv v2.toInt)

def mulUnit (c : InstructionContext) : ExecuteAnswer := arithmeticAnswer (mulResult c.operand1 c.operand2)

/-- ArithmeticFault when the divisor is 0, whatever the dividend (R151, R191). -/
def divUnit (c : InstructionContext) : ExecuteAnswer :=
  if c.operand2 = 0#32 then .fault .arithmetic else arithmeticAnswer (divResult c.operand1 c.operand2)

/-- MUL (R150). -/
def execMul (s : State) : Answer := s.execute mulUnit

/-- DIV (R151). -/
def execDiv (s : State) : Answer := s.execute divUnit

end Sys2Proof.Machine
end

