-- ==== Sys2Proof/Machine/System.lean ====
section
/-! DEFINITION. NOP and HALT in the Execute phase: both pass through (45_system.md R180, R181). HALT shuts fetch when
it is fetched and ends the run when it retires (`Machine/Pipeline.lean`). -/

namespace Sys2Proof.Machine

def nopUnit : ExecuteAnswer := .ok {}
def haltUnit : ExecuteAnswer := .ok {}

/-- NOP: nothing in Execute (R180). -/
def execNop (s : State) : Answer := s.execute fun _ => nopUnit

/-- HALT: nothing in Execute (R181). -/
def execHalt (s : State) : Answer := s.execute fun _ => haltUnit

end Sys2Proof.Machine
end

