-- ==== Sys2Proof/Machine/Dispatch.lean ====
section
/-! DEFINITION. The Execute dispatch (40_pipeline_control.md R90, R110): what the Execute phase does in a state whose
`LX` holds the instruction. Register operands were read into `LX.v1` .. `LX.v3` at issue (R96). -/

namespace Sys2Proof.Machine

def exec (i : Instr) (s : State) : Host.Outcome State Fault Refusal :=
  match i with
  | .nop => Sys2Proof.Machine.execNop s
  | .add _ _ _ => Sys2Proof.Machine.execAdd s
  | .sub _ _ _ => Sys2Proof.Machine.execSub s
  | .and _ _ _ => Sys2Proof.Machine.execAnd s
  | .or _ _ _ => Sys2Proof.Machine.execOr s
  | .xor _ _ _ => Sys2Proof.Machine.execXor s
  | .addl _ _ imm => Sys2Proof.Machine.execAddl imm s
  | .subl _ _ imm => Sys2Proof.Machine.execSubl imm s
  | .mul _ _ _ => Sys2Proof.Machine.execMul s
  | .cmp _ _ => Sys2Proof.Machine.execCmp s
  | .movc _ imm => Sys2Proof.Machine.execMovc imm s
  | .div _ _ _ => Sys2Proof.Machine.execDiv s
  | .bz imm => Sys2Proof.Machine.execBz imm s
  | .bnz imm => Sys2Proof.Machine.execBnz imm s
  | .load _ _ imm => Sys2Proof.Machine.execLoad imm s
  | .store _ _ imm => Sys2Proof.Machine.execStore imm s
  | .ldr _ _ _ => Sys2Proof.Machine.execLdr s
  | .str _ _ _ => Sys2Proof.Machine.execStr s
  | .halt => Sys2Proof.Machine.execHalt s

end Sys2Proof.Machine
end

