-- ==== Sys2Proof/Machine/Pipeline.lean ====
section
/-! DEFINITION. The tick: the five phases in the order WB, MEM, EX, D, F on one shared state, then the end-of-tick
bookkeeping (40_pipeline_control.md R80 to R106, assembled as in R110). -/

namespace Sys2Proof.Machine

/-! ## Writeback -/

/-- Register commit and stall release, for a register-producing instruction (R84, R85). -/
def State.commitRegister (s : State) (c : InstructionContext) : State :=
  match destination c.instr with
  | none => s
  | some rd => ((s.writeReg rd c.resultField).setPending rd false).setStalls false

/-- Store commit, for a store-class instruction (R87). The address was checked in Execute (R8, R160). -/
def State.commitStore (s : State) (c : InstructionContext) : Answer :=
  if storeClass c.instr then
    if s.hasWord c.addrField then .next (s.storeWord c.addrField c.resultField)
    else .fault (.absentDataWord c.addrField)
  else .next s

/-- Halt signalling (R89). -/
def State.signalHalt (s : State) (c : InstructionContext) : State :=
  if c.instr = .halt then s.setHalted else s

/-- The Writeback phase (R83: rules R84 to R87 and R89 in that order, then `LW <- empty`). -/
def wbPhase (s : State) : Answer :=
  match s.lw.content with
  | none => .next s
  | some c =>
    andThen ((s.commitRegister c).countRetired.commitStore c) fun s' => .next (s'.signalHalt c).emptyWriteback

/-! ## Memory -/

/-- The Memory phase's read for a load-class instruction; every other instruction is unchanged (R88). -/
def memPhase (s : State) : Answer :=
  match s.lm.content with
  | none => .next s
  | some c =>
    if loadClass c.instr then
      if s.hasWord c.addrField then .next (s.toWriteback { c with result := some (s.word c.addrField) })
      else .fault (.absentDataWord c.addrField)
    else .next (s.toWriteback c)

/-! ## Execute -/

/-- The Execute phase: `REDIR <- 0`, then the instruction in `LX` by its own meaning (R90). -/
def exPhase (s : State) : Answer :=
  match s.lx.content with
  | none => .next s.clearRedirect
  | some c => exec c.instr s.clearRedirect

/-! ## Decode / Issue -/

/-- The Decode phase: stall on a hazard, else read operands, mark the destination, issue (R93 to R98). -/
def decodePhase (s : State) : State :=
  match s.ld.content with
  | none => s
  | some c =>
    if s.hazard c.instr then s.setStalls true
    else (s.markDestination c.instr).issue (s.readOperands c)

/-! ## Fetch -/

/-- Fetch at the pc: the record, or shut fetch where there is none; an illegal word is refused
(R104, R105; 93_implementation_defined.md U9, notes/assumptions/6.md). -/
def State.fetchRecord (s : State) : Answer :=
  match s.recordAt s.pc with
  | none => .next s.shutFetch
  | some w =>
    match decodeRecord w with
    | .ok r => .next (s.fetched r)
    | .error _ => .refused (.illegalRecord w)

/-- The Fetch phase: redirect, fetch shut, Decode stalled, fetch, in that order of tests (R101 to R105). -/
def fetchPhase (s : State) : Answer :=
  if s.redir then .next s
  else if !s.fen then .next s
  else if s.ld.content.isSome then .next s
  else s.fetchRecord

/-! ## The tick -/

/-- What follows Execute: nothing when it entered `Faulted` (R91, R196), else Decode, Fetch, end of tick (R106). -/
def afterExecute (s : State) : Answer :=
  if s.status = .faulted then .next s
  else andThen (fetchPhase (decodePhase s)) fun s' => .next s'.endTick

/-- One tick (R80, R110); outside `Running` it changes nothing (R82). -/
def tick (s : State) : Answer :=
  if s.status = .running then andThen (andThen (andThen (wbPhase s) memPhase) exPhase) afterExecute
  else .next s

end Sys2Proof.Machine
end

