-- ==== Sys2Proof/Machine/Program.lean ====
section
/-! DEFINITION. Loading a program and reset: `initialize` (10_state.md R31, 60_exceptions.md R193, 70_reset_and_hazards.md
R220), the clock edge with its reset input (R34), and placing one record so that the very next step
runs it. -/

namespace Sys2Proof.Machine

/-- InitError: no state is created (R193). It is no state of the running hardware and has no `FAULT.kind`. -/
inductive InitError where
  /-- `N == 0` -/
  | emptyTable
  /-- an opcode above `0x12` or a non-zero reserved byte in some record -/
  | illegalRecord
  /-- `PC_BASE < 0` or `PC_BASE + 4*N > 2^31 - 1` -/
  | placement
  /-- `DMEM_WORDS < 1` or `DMEM_WORDS > 2^31` -/
  | dmemWords
  /-- `DMEM_INIT` is not of length `DMEM_WORDS` -/
  | dmemInitLength
  deriving DecidableEq, Repr

/-- Why a table and parameters are refused, if they are (R72, R193). -/
def initProblem (table : List RecordWord) (pcBase : Int) (dmemWords : Nat) : Option InitError :=
  if table.isEmpty then some .emptyTable
  else if !table.all legalWord then some .illegalRecord
  else if !placementLegal pcBase table.length then some .placement
  else if !dmemWordsLegal dmemWords then some .dmemWords
  else none

/-- `DMEM_INIT` as given: the default all-zero memory, or exactly `DMEM_WORDS` words (R6, R193). -/
def dmemInitMemory (dmemWords : Nat) (dmemInit : Option (List Word)) : Option Memory :=
  match dmemInit with
  | none => some []
  | some words => if words.length = dmemWords then some (Memory.ofWordsFrom 0 words) else none

/-- `initialize(table, PC_BASE, DMEM_WORDS, DMEM_INIT)` (R193, R220). -/
def initializeRun (table : List RecordWord) (pcBase : Int) (dmemWords : Nat) (dmemInit : Option (List Word)) :
    Except InitError State :=
  match initProblem table pcBase dmemWords with
  | some e => .error e
  | none =>
    match dmemInitMemory dmemWords dmemInit with
    | none => .error .dmemInitLength
    | some m => .ok (State.initial { pcBase := wrap32 pcBase, dmemWords := dmemWords, dmemInit := m } table)

/-- A rising edge with `rst` high: every piece of state takes its reset value, with `PC_BASE` sampled from the `pc_base`
port; the table, `DMEM_WORDS` and `DMEM_INIT` stay those supplied (R34, R220; notes/assumptions/11.md). A sampled
`pc_base` that `initialize` would refuse is an InitError (notes/assumptions/12.md). -/
def resetEdge (pcBase : Word) (s : State) : Except InitError State :=
  match initProblem s.table pcBase.toInt s.params.dmemWords with
  | some e => .error e
  | none => .ok (State.initial { s.params with pcBase := pcBase } s.table)

/-- One rising edge of `clk`: reset when `rst` is sampled 1, else one tick (R34, R80, R220). -/
def clockEdge (rst : Bool) (pcBase : Word) (s : State) : Except InitError Answer :=
  if rst then
    match resetEdge pcBase s with
    | .ok s' => .ok (.next s')
    | .error e => .error e
  else .ok (tick s)

/-! ## Placing one record so that the very next step runs it (notes/assumptions/4.md) -/

/-- No instruction in flight: the four latches empty, nothing pending, nothing stalled, no redirect. -/
def State.drained (s : State) : State :=
  { s with
    pend := Vector.replicate 16 false
    redir := false
    lf := { s.lf with stall := false }
    ld := Latch.empty
    lx := Latch.empty
    lm := Latch.empty
    lw := Latch.empty }

/-- The word stands in the table at the pc: in place of the record there, or as a one-record table based at the pc. -/
def State.placeRecord (s : State) (w : RecordWord) : State :=
  match s.recordAt s.pc, recordIndex s.params.pcBase s.pc with
  | some _, some k => { s with table := s.table.set k w }
  | _, _ => { s with params := { s.params with pcBase := s.pc }, table := [w] }

/-- `s` running with nothing in flight, fetch open, and the word at the pc. -/
def State.placeForFetch (s : State) (w : RecordWord) : State :=
  { (s.drained.placeRecord w) with status := .running, fen := true }

/-- The Fetch phase and then the Decode phase, which bring the record at the pc into `LX` with its operands read (R104,
R96, R98). Where Fetch stops, the record stays at the pc and the next step's Fetch answers that stop. -/
def State.fillFront (s : State) : State :=
  match fetchPhase s with
  | .next f => decodePhase f
  | .fault _ => s
  | .refused _ => s

end Sys2Proof.Machine
end

