-- ==== Sys2Proof/Machine/Step.lean ====
section
/-! DEFINITION. One step is one tick: one rising edge of `clk` with `rst` low (10_state.md R31; notes/assumptions/2.md). -/

namespace Sys2Proof.Machine

/-- One step of the machine. -/
def step (s : State) : Host.Outcome State Fault Refusal := tick s

/-- `s` with a record word placed so that the very next step runs it, alone: the word stands in the table at the pc, and
the pipeline's front is filled as its own Fetch and Decode phases fill it, so that the next step's Execute phase is
`exec` of the decoded instruction with its operands read. A word that is no record stands at the pc, where the next
step refuses it (notes/assumptions/4.md). -/
def State.withFetchWord (s : State) (nbits w : Nat) : State := (s.placeForFetch (tableWord nbits w)).fillFront

end Sys2Proof.Machine
end

