-- ==== Sys2Proof/Assembly.lean ====
section
/-! DEFINITION. The assembler syntax of 30_encoding.md R73: an instruction's operands in the order of R62's third column,
and its text. The hardware never reads it; `Decode.lean` does not depend on it. -/

namespace Sys2Proof

/-- An operand as the assembler writes it (R73). -/
inductive Operand where
  | register (r : Reg)
  | immediate (i : Word)
  deriving DecidableEq, Repr

/-- The mnemonic and the operands, in the order of R62's third column. -/
def Instr.operands : Instr → Opcode × List Operand
  | .nop => (.nop, [])
  | .add rd rs1 rs2 => (.add, [.register rd, .register rs1, .register rs2])
  | .sub rd rs1 rs2 => (.sub, [.register rd, .register rs1, .register rs2])
  | .and rd rs1 rs2 => (.and, [.register rd, .register rs1, .register rs2])
  | .or rd rs1 rs2 => (.or, [.register rd, .register rs1, .register rs2])
  | .xor rd rs1 rs2 => (.xor, [.register rd, .register rs1, .register rs2])
  | .addl rd rs1 imm => (.addl, [.register rd, .register rs1, .immediate imm])
  | .subl rd rs1 imm => (.subl, [.register rd, .register rs1, .immediate imm])
  | .mul rd rs1 rs2 => (.mul, [.register rd, .register rs1, .register rs2])
  | .cmp rs1 rs2 => (.cmp, [.register rs1, .register rs2])
  | .movc rd imm => (.movc, [.register rd, .immediate imm])
  | .div rd rs1 rs2 => (.div, [.register rd, .register rs1, .register rs2])
  | .bz imm => (.bz, [.immediate imm])
  | .bnz imm => (.bnz, [.immediate imm])
  | .load rd rs1 imm => (.load, [.register rd, .register rs1, .immediate imm])
  | .store rs1 rs2 imm => (.store, [.register rs1, .register rs2, .immediate imm])
  | .ldr rd rs1 rs2 => (.ldr, [.register rd, .register rs1, .register rs2])
  | .str rs1 rs2 rs3 => (.str, [.register rs1, .register rs2, .register rs3])
  | .halt => (.halt, [])

/-- `R` and the decimal index, or `#` and the signed decimal number (R73; the leading minus sign is the spec's own). -/
def Operand.text : Operand → String
  | .register r => "R" ++ toString r.toNat
  | .immediate i => "#" ++ toString i.toInt

/-- The instruction's text: the mnemonic in capitals, a space, the operands separated by commas (R73). -/
def Instr.text (i : Instr) : String :=
  match i.operands with
  | (op, []) => op.mnemonic
  | (op, operands) => op.mnemonic ++ " " ++ String.intercalate "," (operands.map Operand.text)

end Sys2Proof
end

