-- ==== Sys2Proof/Machine/Clocked.lean ====
section
/-! DEFINITION. The same tick as clocked hardware (40_pipeline_control.md R107): every stage computed combinationally
from the registered state, every register updated at the edge, with the paths (a) to (e). It runs no phase after
another; that it equals the tick is a statement, not a definition. -/

namespace Sys2Proof.Machine

/-- The Execute stage's combinational answer for the instruction in `LX` (R90, R110). -/
def executeAnswer (dmemWords : Nat) (z : Bool) (i : Instr) (c : InstructionContext) : ExecuteAnswer :=
  match i with
  | .nop => nopUnit
  | .add _ _ _ => addUnit c
  | .sub _ _ _ => subUnit c
  | .and _ _ _ => andUnit c
  | .or _ _ _ => orUnit c
  | .xor _ _ _ => xorUnit c
  | .addl _ _ imm => addlUnit imm c
  | .subl _ _ imm => sublUnit imm c
  | .mul _ _ _ => mulUnit c
  | .cmp _ _ => cmpUnit c
  | .movc _ imm => movcUnit imm
  | .div _ _ _ => divUnit c
  | .bz imm => bzUnit imm z c
  | .bnz imm => bnzUnit imm z c
  | .load _ _ imm => loadUnit imm dmemWords c
  | .store _ _ imm => storeUnit imm dmemWords c
  | .ldr _ _ _ => ldrUnit dmemWords c
  | .str _ _ _ => strUnit dmemWords c
  | .halt => haltUnit

/-! ## Writeback stage: the write ports -/

/-- The register write port: destination and value of the instruction in `LW` (R84). -/
def regWritePort (s : State) : Option (Reg × Word) :=
  match s.lw.content with
  | none => none
  | some c =>
    match destination c.instr with
    | none => none
    | some rd => some (rd, c.resultField)

/-- The memory write port: word index and value of the store in `LW` (R87). -/
def memWritePort (s : State) : Option (Nat × Word) :=
  match s.lw.content with
  | none => none
  | some c => if storeClass c.instr then some (c.addrField, c.resultField) else none

/-- `LW` retires a HALT (R89). -/
def haltRetires (s : State) : Bool :=
  match s.lw.content with
  | none => false
  | some c => c.instr = .halt

/-- Path (a): the register file is written before it is read in the same cycle (R107). -/
def readThrough (s : State) (r : Reg) : Word :=
  match regWritePort s with
  | none => s.reg r
  | some (rd, v) => if rd = r then v else s.reg r

/-- Path (a): the scoreboard bit cleared by WB is seen cleared in the same cycle (R107). -/
def pendingThrough (s : State) (r : Reg) : Bool :=
  match regWritePort s with
  | none => s.pending r
  | some (rd, _) => if rd = r then false else s.pending r

/-- Path (b): the data memory returns the written value when one word is written and read in one cycle (R107). -/
def memReadThrough (s : State) (a : Nat) : Word :=
  match memWritePort s with
  | none => s.word a
  | some (b, v) => if b = a then v else s.word a

/-! ## Memory and Execute stages -/

/-- The next MEM/WB register: the instruction of `LM`, a load with the word read (R88). -/
def nextLW (s : State) : Option InstructionContext :=
  match s.lm.content with
  | none => none
  | some c => if loadClass c.instr then some { c with result := some (memReadThrough s c.addrField) } else some c

/-- The Execute stage's signals; an empty `LX` produces nothing. -/
def executeSignals (s : State) : ExecuteAnswer :=
  match s.lx.content with
  | none => .ok {}
  | some c => executeAnswer s.params.dmemWords s.z c.instr c

/-- The next EX/MEM register (R90). -/
def nextLM (s : State) (e : Executed) : Option InstructionContext :=
  match s.lx.content with
  | none => none
  | some c => some { c with result := produced e.result c.result, addr := produced e.addr c.addr }

/-! ## Decode stage -/

/-- Path (c): a taken branch turns the instruction in IF/ID into a bubble (R107). -/
def decodeInput (s : State) (e : Executed) : Option InstructionContext :=
  if e.taken.isSome then none else s.ld.content

/-- An operand field in use names a register still pending in this cycle (R94). -/
def operandPending (s : State) (r : Option Reg) : Bool :=
  match r with
  | none => false
  | some r => pendingThrough s r

/-- The stall signal of the hazard check (R94, R107 path (d)). -/
def stallSignal (s : State) (e : Executed) : Bool :=
  match decodeInput s e with
  | none => false
  | some c =>
    operandPending s (source1 c.instr) || operandPending s (source2 c.instr) ||
    operandPending s (source3 c.instr) || operandPending s (destination c.instr)

/-- The instruction issued in this cycle, if any; a stall forces a bubble into ID/EX (R107 path (d)). -/
def issued (s : State) (e : Executed) : Option InstructionContext :=
  if stallSignal s e then none else decodeInput s e

/-- One `v` field of the next ID/EX register (R96). -/
def operandThrough (s : State) (r : Option Reg) (old : Option Word) : Option Word :=
  match r with
  | none => old
  | some r => some (readThrough s r)

/-- The next ID/EX register (R98). -/
def nextLX (s : State) (e : Executed) : Option InstructionContext :=
  match issued s e with
  | none => none
  | some c =>
    some { c with
      v1 := operandThrough s (source1 c.instr) c.v1
      v2 := operandThrough s (source2 c.instr) c.v2
      v3 := operandThrough s (source3 c.instr) c.v3 }

/-- The register marked pending by this cycle's issue (R97). -/
def markedRegister (s : State) (e : Executed) : Option Reg :=
  match issued s e with
  | none => none
  | some c => destination c.instr

/-! ## Fetch stage -/

/-- Fetch reads in this cycle: `FEN`, no taken branch, no stall (R101, R107 paths (c), (d)). -/
def fetches (s : State) (e : Executed) : Bool := s.fen && e.taken.isNone && !stallSignal s e

/-- The record on the fetch port, if there is one (R30). -/
def portRecord (s : State) : Option Record :=
  match s.recordAt s.pc with
  | none => none
  | some w =>
    match decodeRecord w with
    | .ok r => some r
    | .error _ => none

/-- The instruction fetched in this cycle (R104). -/
def fetchedNow (s : State) (e : Executed) : Option Record := if fetches s e then portRecord s else none

/-- The next `FEN`: a taken branch opens it, a fetched HALT or a missing record shuts it (R92, R104, R105). -/
def nextFen (s : State) (e : Executed) : Bool :=
  if e.taken.isSome then true
  else if fetches s e then
    match portRecord s with
    | none => false
    | some r => !(r.op = .halt)
  else s.fen

/-- The pc multiplexer: the branch target over `pc + 4` over holding (R107 paths (c), (d)). -/
def nextPcMux (s : State) (e : Executed) : Word :=
  match e.taken with
  | some target => target
  | none => if (fetchedNow s e).isSome then nextPc s.pc else s.pc

/-- The next IF/ID register: the fetched instruction, the stalled one, or a bubble. -/
def nextLD (s : State) (e : Executed) : Option InstructionContext :=
  if stallSignal s e then decodeInput s e else (fetchedNow s e).map (fetchedContext s.pc)

/-- The next copy in `LF` of the instruction most recently fetched (R21). -/
def nextLF (s : State) (e : Executed) : Option InstructionContext :=
  match fetchedNow s e with
  | none => s.lf.last
  | some r => some (fetchedContext s.pc r)

/-! ## The edge -/

/-- The registers that WB and MEM update in every cycle, a faulting one included (R107 path (e)). -/
def backEdge (s : State) : State :=
  { s with
    x := match regWritePort s with
      | none => s.x
      | some (rd, v) => s.x.set rd.toNat v rd.isLt
    pend := match regWritePort s with
      | none => s.pend
      | some (rd, _) => s.pend.set rd.toNat false rd.isLt
    dmem := match memWritePort s with
      | none => s.dmem
      | some (a, v) => Memory.write s.dmem a v
    retired := if s.lw.content.isSome then s.retired + 1#64 else s.retired
    lw := { s.lw with content := nextLW s }
    lm := { s.lm with content := none } }

/-- The edge of a cycle in which EX raises a fault: every other register is frozen (R107 path (e), R196). WB's release
of the stall flags stands (R85). -/
def faultEdge (s : State) (kind : FaultKind) (c : InstructionContext) : State :=
  { backEdge s with
    status := .faulted
    fault := { kind := kind, pc := c.pc, op := c.record.op.code }
    redir := false
    ld := { s.ld with stall := s.ld.stall && (regWritePort s).isNone }
    lf := { s.lf with stall := s.lf.stall && (regWritePort s).isNone } }

/-- The edge of every other cycle of a running machine (R107). -/
def normalEdge (s : State) (e : Executed) : State :=
  { backEdge s with
    pend := match markedRegister s e with
      | none => (backEdge s).pend
      | some rd => (backEdge s).pend.set rd.toNat true rd.isLt
    z := match e.newZ with
      | none => s.z
      | some b => b
    pc := nextPcMux s e
    clk := s.clk + 1#64
    status := if haltRetires s then .halted else .running
    fen := nextFen s e
    redir := false
    lf := { last := nextLF s e, stall := stallSignal s e }
    ld := { content := nextLD s e, stall := stallSignal s e }
    lx := { s.lx with content := nextLX s e }
    lm := { s.lm with content := nextLM s e } }

/-- One rising edge of the clocked implementation with `rst` low (R107, R82; notes/assumptions/16.md). -/
def clockedEdge (s : State) : State :=
  if s.status = .running then
    match executeSignals s, s.lx.content with
    | .fault kind, some c => faultEdge s kind c
    | .fault _, none => s
    | .ok e, _ => normalEdge s e
  else s

end Sys2Proof.Machine
end

