-- ==== Sys2Proof/Machine/HostPort.lean ====
section
/-! DEFINITION. What the host sees: the core operations' views, the inspector, the trace outputs and the output ports
(10_state.md R31 to R34). Reading has no side effect; all views are of a tick boundary. -/

namespace Sys2Proof.Machine

/-- `isHalted` (R16, R31). -/
def State.isHalted (s : State) : Bool := s.status = .halted

/-- The numeric fault kind (R17, R190). -/
def FaultKind.code : FaultKind → BitVec 2
  | .none => 0#2
  | .arithmetic => 1#2
  | .address => 2#2

/-- The status, counter and fetch-address outputs (R34). -/
structure Outputs where
  imemAddr : Word
  halted : Bool
  faulted : Bool
  faultKind : BitVec 2
  faultPc : Word
  faultOp : BitVec 8
  clkCount : BitVec 64
  retiredCount : BitVec 64
  zflag : Bool
  deriving DecidableEq, Repr

/-- The output ports of R34. -/
def State.outputs (s : State) : Outputs :=
  { imemAddr := s.pc
    halted := s.isHalted
    faulted := s.status = .faulted
    faultKind := s.fault.kind.code
    faultPc := s.fault.pc
    faultOp := s.fault.op
    clkCount := s.clk
    retiredCount := s.retired
    zflag := s.z }

/-- `imem_hit`: a record exists at `imem_addr` (R30, R34). -/
def State.imemHit (s : State) : Bool := (s.recordAt s.pc).isSome

/-- `insp_reg_val`, `insp_reg_pend` (R32, R34). -/
def State.inspectRegister (s : State) (i : Reg) : Word × Bool := (s.reg i, s.pending i)

/-- `insp_mem_val`: the word when in range, else 0 (R34). -/
def State.inspectMemory (s : State) (a : Word) : Word :=
  if s.hasWord a.toNat then s.word a.toNat else 0#32

/-- The instruction fields a latch exports (R33). -/
structure TraceFields where
  pc : Word
  op : BitVec 8
  rd : Reg
  rs1 : Reg
  rs2 : Reg
  rs3 : Reg
  imm : Word
  deriving DecidableEq, Repr

/-- One latch's trace outputs (R33); the fields of an empty latch have no meaning (R20). -/
structure TraceSlot where
  valid : Bool
  fields : Option TraceFields
  stall : Bool
  deriving DecidableEq, Repr

/-- The exported fields of an instruction in flight (R33). -/
def InstructionContext.traceFields (c : InstructionContext) : TraceFields :=
  { pc := c.pc, op := c.record.op.code, rd := c.record.rd, rs1 := c.record.rs1, rs2 := c.record.rs2,
    rs3 := c.record.rs3, imm := c.record.imm }

/-- The trace outputs of `LD`, `LX`, `LM` or `LW` (R33). -/
def Latch.trace (l : Latch) : TraceSlot :=
  { valid := l.content.isSome, fields := l.content.map InstructionContext.traceFields, stall := l.stall }

/-- The trace outputs of `LF`, whose `valid` bit is `FEN` (R21, R33). -/
def State.fetchTrace (s : State) : TraceSlot :=
  { valid := s.fen, fields := s.lf.last.map InstructionContext.traceFields, stall := s.lf.stall }

/-- The five latches' trace outputs, `LF`, `LD`, `LX`, `LM`, `LW` (R33). -/
def State.trace (s : State) : List TraceSlot :=
  [s.fetchTrace, s.ld.trace, s.lx.trace, s.lm.trace, s.lw.trace]

end Sys2Proof.Machine
end

