-- ==== Sys2Proof/Machine/Sequential.lean ====
section
/-! DEFINITION. The sequential machine of 40_pipeline_control.md R108: one instruction at a time on `(x, Z, DMEM, apc)`,
each by the "Architectural effect" line of its rule. It is the specification the pipeline refines. -/

namespace Sys2Proof.Machine

/-- How a sequential run stands (R108). -/
inductive SequentialStatus where
  | running
  /-- `Rec(apc)` is none -/
  | stuck
  | halted
  /-- a fault, with the faulting instruction's address and opcode -/
  | faulted (kind : FaultKind) (pc : Word) (op : BitVec 8)
  deriving DecidableEq, Repr

/-- The sequential machine's state (R108), with the number of instructions executed (HALT counted). -/
structure SequentialState where
  x : Vector Word 16
  z : Bool
  dmem : Memory
  apc : Word
  executed : Nat
  status : SequentialStatus
  deriving DecidableEq, Repr

/-- Reset values as R28, `apc = PC_BASE` (R108). -/
def SequentialState.initial (p : Params) : SequentialState :=
  { x := Vector.replicate 16 0#32, z := false, dmem := p.dmemInit, apc := p.pcBase, executed := 0, status := .running }

/-- `x[r]`. -/
def SequentialState.reg (q : SequentialState) (r : Reg) : Word := q.x[r.toNat]'(r.isLt)

/-- `pc <- pc + 4`. -/
def SequentialState.advance (q : SequentialState) : SequentialState := { q with apc := nextPc q.apc }

/-- `x[rd] <- v`. -/
def SequentialState.write (q : SequentialState) (rd : Reg) (v : Word) : SequentialState :=
  { q with x := q.x.set rd.toNat v rd.isLt }

/-- `x[rd] <- v; Z <- (v == 0); pc <- pc + 4`. -/
def SequentialState.arithmetic (q : SequentialState) (rd : Reg) (v : Word) : SequentialState :=
  { q.write rd v with z := zeroFlag v, apc := nextPc q.apc }

/-- A fault stops the machine; nothing else changes. -/
def SequentialState.fail (q : SequentialState) (kind : FaultKind) (op : Opcode) : SequentialState :=
  { q with status := .faulted kind q.apc op.code }

/-- `x[rd] <- DMEM[EA]; pc <- pc + 4`, or AddressFault. -/
def SequentialState.loadFrom (q : SequentialState) (dmemWords : Nat) (op : Opcode) (rd : Reg) (ea : Int) :
    SequentialState :=
  if addressInRange dmemWords ea then (q.write rd (Memory.read q.dmem ea.toNat)).advance else q.fail .address op

/-- `DMEM[EA] <- v; pc <- pc + 4`, or AddressFault. -/
def SequentialState.storeTo (q : SequentialState) (dmemWords : Nat) (op : Opcode) (v : Word) (ea : Int) :
    SequentialState :=
  if addressInRange dmemWords ea then { q with dmem := Memory.write q.dmem ea.toNat v, apc := nextPc q.apc }
  else q.fail .address op

/-- A branch: `pc <- wrap32(pc + imm)` with the branch's own address when taken, else `pc <- pc + 4`. -/
def SequentialState.branch (q : SequentialState) (taken : Bool) (imm : Word) : SequentialState :=
  if taken then { q with apc := branchTarget q.apc imm } else q.advance

/-- The "Architectural effect" line of each instruction's rule (R131 to R139, R150, R151, R161 to R164, R171, R172,
R180, R181). -/
def architecturalEffect (dmemWords : Nat) (i : Instr) (q : SequentialState) : SequentialState :=
  match i with
  | .nop => q.advance
  | .add rd rs1 rs2 => q.arithmetic rd (addResult (q.reg rs1) (q.reg rs2))
  | .sub rd rs1 rs2 => q.arithmetic rd (subResult (q.reg rs1) (q.reg rs2))
  | .and rd rs1 rs2 => q.arithmetic rd (andResult (q.reg rs1) (q.reg rs2))
  | .or rd rs1 rs2 => q.arithmetic rd (orResult (q.reg rs1) (q.reg rs2))
  | .xor rd rs1 rs2 => q.arithmetic rd (xorResult (q.reg rs1) (q.reg rs2))
  | .addl rd rs1 imm => q.arithmetic rd (addResult (q.reg rs1) imm)
  | .subl rd rs1 imm => q.arithmetic rd (subResult (q.reg rs1) imm)
  | .mul rd rs1 rs2 => q.arithmetic rd (mulResult (q.reg rs1) (q.reg rs2))
  | .cmp rs1 rs2 => { q.advance with z := equalFlag (q.reg rs1) (q.reg rs2) }
  | .movc rd imm => q.arithmetic rd imm
  | .div rd rs1 rs2 =>
    if q.reg rs2 = 0#32 then q.fail .arithmetic .div else q.arithmetic rd (divResult (q.reg rs1) (q.reg rs2))
  | .bz imm => q.branch q.z imm
  | .bnz imm => q.branch (!q.z) imm
  | .load rd rs1 imm => q.loadFrom dmemWords .load rd (effectiveAddress (q.reg rs1) imm)
  | .store rs1 rs2 imm => q.storeTo dmemWords .store (q.reg rs1) (effectiveAddress (q.reg rs2) imm)
  | .ldr rd rs1 rs2 => q.loadFrom dmemWords .ldr rd (effectiveAddress (q.reg rs1) (q.reg rs2))
  | .str rs1 rs2 rs3 => q.storeTo dmemWords .str (q.reg rs1) (effectiveAddress (q.reg rs2) (q.reg rs3))
  | .halt => { q with status := .halted }

/-- An instruction that stops with a fault is not counted as executed; HALT is (R108, R181; notes/assumptions/15.md). -/
def SequentialState.count (q : SequentialState) : SequentialState :=
  match q.status with
  | .running => { q with executed := q.executed + 1 }
  | .stuck => q
  | .halted => { q with executed := q.executed + 1 }
  | .faulted _ _ _ => q

/-- One step of the sequential machine; a stopped machine stays as it is (R108; notes/assumptions/15.md). -/
def sequentialStep (p : Params) (table : List RecordWord) (q : SequentialState) : SequentialState :=
  if q.status = .running then
    match recordIn p.pcBase table q.apc with
    | none => { q with status := .stuck }
    | some w =>
      match decode w with
      | .ok i => (architecturalEffect p.dmemWords i q).count
      | .error _ => { q with status := .stuck }
  else q

/-- `n` steps of the sequential machine. -/
def sequentialRun (p : Params) (table : List RecordWord) (n : Nat) (q : SequentialState) : SequentialState :=
  match n with
  | 0 => q
  | k + 1 => sequentialRun p table k (sequentialStep p table q)

end Sys2Proof.Machine
end

