-- ==== Sys2Proof/Safety.lean ====
section
/-! DEFINITION. What a safe run is, how a run ends (45_system.md R182), and the invariant of the machine. -/

namespace Sys2Proof.Machine

/-- The run has ended: `Halted` or `Faulted`, and in no other way (R182). -/
abbrev State.ended (s : State) : Prop := s.status = .halted ∨ s.status = .faulted

/-- `LX`, `LM` and `LW` are empty: nothing has been issued that has not retired. -/
abbrev State.backEmpty (s : State) : Prop := s.lx.content = none ∧ s.lm.content = none ∧ s.lw.content = none

/-- The stuck, non-final state of R182: running, all latches empty, fetch shut. -/
abbrev State.stuck (s : State) : Prop :=
  s.status = .running ∧ s.ld.content = none ∧ s.backEmpty ∧ s.fen = false

/-- A safe state: the run has not ended in a fault (R197: a `Faulted` state is never a successful end). -/
abbrev State.safe (s : State) : Prop := s.status ≠ .faulted

/-- `k` ticks from `s` that all answer a next state, and the last of them (`Core.run` of the host). -/
abbrev RunsTo (k : Nat) (s t : State) : Prop := Sys2Proof.core.run k s = .next t

/-! ## The invariant, part by part -/

/-- 1 when the latch holds an instruction with destination `r`, else 0. -/
def Latch.writes (l : Latch) (r : Reg) : Nat :=
  match l.content with
  | none => 0
  | some c => (destination c.instr == some r).toNat

/-- How many instructions in `LX`, `LM`, `LW` have destination `r` (R11). -/
def State.writersInFlight (s : State) (r : Reg) : Nat := s.lx.writes r + s.lm.writes r + s.lw.writes r

/-- `pend[r] == 1` if and only if exactly one instruction with destination `r` is in `LX`, `LM` or `LW`, and else none
is (R11). -/
abbrev State.scoreboardExact (s : State) : Prop :=
  ∀ r : Reg, s.writersInFlight r = if s.pending r then 1 else 0

/-- The latch's instruction is the record at its own address (R20: fields are never changed after Fetch). -/
abbrev State.holdsItsRecord (s : State) (content : Option InstructionContext) : Prop :=
  ∀ c ∈ content, ∃ w ∈ s.recordAt c.pc, decodeRecord w = .ok c.record

/-- The latch holds a HALT. -/
abbrev Latch.holdsHalt (l : Latch) : Prop := ∃ c ∈ l.content, c.instr = .halt

/-- `addr` has been written and names a word of data memory (R160). -/
abbrev State.addressChecked (s : State) (c : InstructionContext) : Prop :=
  c.addr.isSome ∧ c.addrField < s.params.dmemWords

/-- The sources the instruction in `LX` reads have been read (R96). -/
abbrev InstructionContext.operandsRead (c : InstructionContext) : Prop :=
  ((source1 c.instr).isSome → c.v1.isSome) ∧ ((source2 c.instr).isSome → c.v2.isSome) ∧
  ((source3 c.instr).isSome → c.v3.isSome)

/-- What Execute leaves for an instruction in `LM`: a result unless it is a load or has none, a checked address for a
load or store, the data of a store (R90, R160). -/
abbrev State.executedFields (s : State) (c : InstructionContext) : Prop :=
  ((destination c.instr).isSome → loadClass c.instr = false → c.result.isSome) ∧
  (loadClass c.instr = true → s.addressChecked c) ∧
  (storeClass c.instr = true → s.addressChecked c ∧ c.result.isSome)

/-- What Memory leaves for an instruction in `LW`: a result for every destination, address and data of a store. -/
abbrev State.writebackFields (s : State) (c : InstructionContext) : Prop :=
  ((destination c.instr).isSome → c.result.isSome) ∧
  (storeClass c.instr = true → s.addressChecked c ∧ c.result.isSome)

/-- The fault record before any fault (R28). -/
def FaultRecord.clear : FaultRecord := { kind := .none, pc := 0#32, op := 0#8 }

/-- The invariant of the machine: it holds in every state that a legal program can reach, and every tick keeps it. -/
structure State.Inv (s : State) : Prop where
  /-- the memory is in its canonical form -/
  dmemCanonical : Memory.wf s.dmem = true
  /-- every stored word lies in `0 .. DMEM_WORDS-1` (R47) -/
  dmemBounded : Memory.below s.params.dmemWords s.dmem = true
  /-- `1 <= DMEM_WORDS <= 2^31` (R193) -/
  dmemSize : dmemWordsLegal s.params.dmemWords = true
  /-- every record of the table is legal (R72) -/
  tableLegal : s.table.all legalWord = true
  /-- the table lies in the instruction space (R72) -/
  tablePlaced : placementLegal s.params.pcBase.toInt s.table.length = true
  /-- R11 -/
  scoreboard : s.scoreboardExact
  /-- `REDIR` is 0 at every tick boundary (R19) -/
  redirectClear : s.redir = false
  /-- `LF.stall == LD.stall` (R22 d) -/
  stallsAgree : s.lf.stall = s.ld.stall
  /-- `LD.stall == 1` implies `LD.valid == 1` (R22 d) -/
  stallValid : s.ld.stall = true → s.ld.content.isSome
  /-- a stalled Decode has issued nothing: `LX` is empty (R95, R98) -/
  stallBubble : s.ld.stall = true → s.lx.content = none
  /-- the stall fields of `LX`, `LM`, `LW` are 0 (R22 e) -/
  backNeverStalls : s.lx.stall = false ∧ s.lm.stall = false ∧ s.lw.stall = false
  /-- instruction fields are those of the table (R20) -/
  recordsUnchanged : s.holdsItsRecord s.ld.content ∧ s.holdsItsRecord s.lx.content ∧
    s.holdsItsRecord s.lm.content ∧ s.holdsItsRecord s.lw.content
  /-- the pc addresses the record after the one held in `LD` (R102) -/
  fetchAddress : ∀ c ∈ s.ld.content, s.pc = nextPc c.pc
  /-- R96 -/
  operandsRead : ∀ c ∈ s.lx.content, c.operandsRead
  /-- R90, R160 -/
  executed : ∀ c ∈ s.lm.content, s.executedFields c
  /-- R88 -/
  loaded : ∀ c ∈ s.lw.content, s.writebackFields c
  /-- once HALT is fetched nothing younger is, unless a branch flushes it (R89, R104) -/
  haltInDecode : s.ld.holdsHalt → s.fen = false
  /-- R89, R104 -/
  haltInExecute : s.lx.holdsHalt → s.fen = false ∧ s.ld.content = none
  /-- R89, R104 -/
  haltInMemory : s.lm.holdsHalt → s.fen = false ∧ s.ld.content = none ∧ s.lx.content = none
  /-- R89, R104 -/
  haltInWriteback : s.lw.holdsHalt →
    s.fen = false ∧ s.ld.content = none ∧ s.lx.content = none ∧ s.lm.content = none
  /-- in `Halted` all latches are empty, fetch is shut, nothing is pending (R182) -/
  haltedDrained : s.status = .halted →
    s.ld.content = none ∧ s.backEmpty ∧ s.fen = false ∧ ∀ r : Reg, s.pending r = false
  /-- `FAULT` is written only by a fault (R17, R28) -/
  faultClear : s.status ≠ .faulted → s.fault = FaultRecord.clear
  /-- in `Faulted`, `LX` holds the faulting instruction and `LM` is empty (R196) -/
  faultHeld : s.status = .faulted → s.fault.kind ≠ .none ∧ s.lm.content = none ∧
    ∃ c ∈ s.lx.content, s.fault.pc = c.pc ∧ s.fault.op = c.record.op.code

end Sys2Proof.Machine
end

