-- ==== Sys2Proof/Certificates/Slice0/Obligations.lean ====
section
/-! DEFINITION. The statements for the provers. Statements over every state name no program. The per-instruction
statements come in two groups: `…Executes` says what `exec` answers (the Execute phase, 40_pipeline_control.md R90),
`…Rules` adds the encoding, the hazard check and the run of the instruction alone from its fetch to its retirement.
Where a clause rests on a sentence the spec marks [derived], the docstring says so. -/

namespace Sys2Proof.Statements

open Sys2Proof.Machine

/-! ## Shapes shared by several statements -/

/-- A running machine with nothing in flight, fetch open, the record `r` at the pc and no record after it: the next
five ticks run exactly `r`, alone. -/
abbrev FetchedAlone (s : State) (r : Record) : Prop :=
  s.status = .running ∧ s.fen = true ∧ s.redir = false ∧ s.lf.stall = false ∧
  s.ld = Latch.empty ∧ s.lx = Latch.empty ∧ s.lm = Latch.empty ∧ s.lw = Latch.empty ∧
  (∀ q : Reg, s.pending q = false) ∧ portRecord s = some r ∧ s.recordAt (nextPc s.pc) = none

/-- What five ticks leave of a lone record whose instruction changes nothing else: the pc is past it, one retirement
and five ticks are counted, fetch is shut, `LF` keeps the copy, the latches are empty again. -/
def afterAlone (s : State) (r : Record) : State :=
  { s with
    pc := nextPc s.pc
    clk := s.clk + 5#64
    retired := s.retired + 1#64
    fen := false
    lf := { last := some (fetchedContext s.pc r), stall := false } }

/-- What three ticks leave when the lone record's instruction faults in Execute: two ticks are counted, the instruction
stays in `LX` with its operands, its destination stays pending, nothing is retired (R91, R196). -/
def afterAloneFault (s : State) (r : Record) (kind : FaultKind) (v1 v2 v3 : Option Word) : State :=
  { s with
    pc := nextPc s.pc
    clk := s.clk + 2#64
    fen := false
    status := .faulted
    fault := { kind := kind, pc := s.pc, op := r.op.code }
    lf := { last := some (fetchedContext s.pc r), stall := false }
    lx := { content := some { pc := s.pc, record := r, v1 := v1, v2 := v2, v3 := v3 }, stall := false } }

/-- In every state whose `LX` is occupied, `exec i` answers the state in which the instruction stands in `LM` with the
result `value`, `Z` says whether it is 0, `LX` is empty, and nothing else has changed. -/
def ExecutesTo (i : Instr) (value : InstructionContext → Word) : Prop :=
  ∀ (s : State) (c : InstructionContext), s.lx.content = some c →
    exec i s = .next { s with
      z := value c == 0#32
      lm := { s.lm with content := some { c with result := some (value c) } }
      lx := { s.lx with content := none } }

/-- Alone, the instruction retires in five ticks with `x[rd]` and `Z` written and nothing else changed. -/
def RetiresWriting (i : Instr) (rd : Reg) (value : State → Word) : Prop :=
  ∀ (s : State) (r : Record), FetchedAlone s r → r.instr = i →
    RunsTo 5 s { afterAlone s r with x := s.x.set rd.toNat (value s) rd.isLt, z := value s == 0#32 }

/-- The whole rule of a register-register arithmetic instruction with opcode number `code` and result `f v1 v2`. -/
def RegisterRule (make : Reg → Reg → Reg → Instr) (code : BitVec 8) (f : Word → Word → Word) : Prop :=
  ∀ rd rs1 rs2 : Reg,
    encode (make rd rs1 rs2) = code ++ rd ++ rs1 ++ rs2 ++ 0#4 ++ 0#8 ++ 0#32 ∧
    (∀ s : State, s.hazard (make rd rs1 rs2) = (s.pending rs1 || s.pending rs2 || s.pending rd)) ∧
    ExecutesTo (make rd rs1 rs2) (fun c => f c.operand1 c.operand2) ∧
    RetiresWriting (make rd rs1 rs2) rd (fun s => f (s.reg rs1) (s.reg rs2))

/-- The whole rule of a register-immediate arithmetic instruction. -/
def ImmediateRule (make : Reg → Reg → Word → Instr) (code : BitVec 8) (f : Word → Word → Word) : Prop :=
  ∀ (rd rs1 : Reg) (imm : Word),
    encode (make rd rs1 imm) = code ++ rd ++ rs1 ++ 0#4 ++ 0#4 ++ 0#8 ++ imm ∧
    (∀ s : State, s.hazard (make rd rs1 imm) = (s.pending rs1 || s.pending rd)) ∧
    ExecutesTo (make rd rs1 imm) (fun c => f c.operand1 imm) ∧
    RetiresWriting (make rd rs1 imm) rd (fun s => f (s.reg rs1) imm)

/-- In range, `exec i` answers the state in which the instruction stands in `LM` with the address and the given
`result` field, and nothing else has changed. -/
def ExecutesAddress (i : Instr) (base off : InstructionContext → Word)
    (result : InstructionContext → Option Word) : Prop :=
  ∀ (s : State) (c : InstructionContext), s.lx.content = some c →
    0 ≤ (base c).toInt + (off c).toInt → (base c).toInt + (off c).toInt < s.params.dmemWords →
    exec i s = .next { s with
      lm := { s.lm with
        content := some { c with result := result c, addr := some (wrap32 ((base c).toInt + (off c).toInt)) } }
      lx := { s.lx with content := none } }

/-- Out of range, `exec i` enters `Faulted` with an AddressFault and changes nothing else (R91, R192, R196). -/
def ExecutesAddressFault (i : Instr) (base off : InstructionContext → Word) : Prop :=
  ∀ (s : State) (c : InstructionContext), s.lx.content = some c →
    ((base c).toInt + (off c).toInt < 0 ∨ s.params.dmemWords ≤ (base c).toInt + (off c).toInt) →
    exec i s = .next { s with
      status := .faulted, fault := { kind := .address, pc := c.pc, op := c.record.op.code } }

/-- Alone, a load with destination `rd` and effective address `ea` retires in five ticks with the word in `x[rd]`, or
faults in the third tick. -/
def LoadRule (i : Instr) (rd : Reg) (ea : State → Int) (v1 v2 : State → Option Word) : Prop :=
  ∀ (s : State) (r : Record), FetchedAlone s r → r.instr = i →
    (0 ≤ ea s → ea s < s.params.dmemWords →
      RunsTo 5 s { afterAlone s r with x := s.x.set rd.toNat (s.word (ea s).toNat) rd.isLt }) ∧
    (ea s < 0 ∨ s.params.dmemWords ≤ ea s →
      RunsTo 3 s { afterAloneFault s r .address (v1 s) (v2 s) none with
        pend := s.pend.set rd.toNat true rd.isLt })

/-- Alone, a store of `data` at effective address `ea` retires in five ticks with that word of memory written, every
other word as before, and nothing else changed; or it faults in the third tick having written nothing. -/
def StoreRule (i : Instr) (data : State → Word) (ea : State → Int) (v1 v2 v3 : State → Option Word) : Prop :=
  ∀ (s : State) (r : Record), FetchedAlone s r → r.instr = i →
    (0 ≤ ea s → ea s < s.params.dmemWords →
      ∃ t, RunsTo 5 s t ∧ t = { afterAlone s r with dmem := Memory.write s.dmem (ea s).toNat (data s) } ∧
        (Memory.wf s.dmem = true → ∀ a, t.word a = if a = (ea s).toNat then data s else s.word a)) ∧
    (ea s < 0 ∨ s.params.dmemWords ≤ ea s →
      RunsTo 3 s (afterAloneFault s r .address (v1 s) (v2 s) (v3 s)))

/-- `exec i` for a branch with condition `taken`: the taken-branch actions with the branch in `LM`, or the branch in
`LM` and nothing else (R92, R170 to R172). -/
def BranchExecutes (i : Instr) (imm : Word) (taken : State → Bool) : Prop :=
  ∀ (s : State) (c : InstructionContext), s.lx.content = some c →
    (taken s = true → exec i s = .next { s with
      pc := wrap32 (c.pc.toInt + imm.toInt)
      redir := true
      fen := true
      ld := Latch.empty
      lf := { s.lf with stall := false }
      lm := { s.lm with content := some c }
      lx := { s.lx with content := none } }) ∧
    (taken s = false → exec i s = .next { s with
      lm := { s.lm with content := some c }
      lx := { s.lx with content := none } })

/-- The whole rule of a branch. Alone and taken: after three ticks the pc is the branch's own address plus the
immediate, fetch is open, the branch is in `LM`. Alone and not taken: it retires in five ticks and changes nothing. -/
def BranchRule (make : Word → Instr) (code : BitVec 8) (taken : State → Bool) : Prop :=
  ∀ imm : Word,
    encode (make imm) = code ++ 0#4 ++ 0#4 ++ 0#4 ++ 0#4 ++ 0#8 ++ imm ∧
    (∀ s : State, s.hazard (make imm) = false) ∧
    BranchExecutes (make imm) imm taken ∧
    (∀ (s : State) (r : Record), FetchedAlone s r → r.instr = make imm →
      (taken s = true → RunsTo 3 s { s with
        pc := wrap32 (s.pc.toInt + imm.toInt)
        clk := s.clk + 3#64
        lf := { last := some (fetchedContext s.pc r), stall := false }
        lm := { content := some (fetchedContext s.pc r), stall := false } }) ∧
      (taken s = false → RunsTo 5 s (afterAlone s r)))

/-- The instruction in `LX` raises a run-time fault of this kind: DIV by zero, or an effective address outside data
memory (R190, R191, R192). -/
def RaisesFault (dmemWords : Nat) (c : InstructionContext) (kind : FaultKind) : Prop :=
  (kind = .arithmetic ∧ (∃ rd rs1 rs2, c.instr = .div rd rs1 rs2) ∧ c.operand2 = 0#32) ∨
  (kind = .address ∧ ∃ ea : Int, (ea < 0 ∨ (dmemWords : Int) ≤ ea) ∧
    ((∃ rd rs1 imm, c.instr = .load rd rs1 imm ∧ ea = c.operand1.toInt + imm.toInt) ∨
     (∃ rd rs1 rs2, c.instr = .ldr rd rs1 rs2 ∧ ea = c.operand1.toInt + c.operand2.toInt) ∨
     (∃ rs1 rs2 imm, c.instr = .store rs1 rs2 imm ∧ ea = c.operand2.toInt + imm.toInt) ∨
     (∃ rs1 rs2 rs3, c.instr = .str rs1 rs2 rs3 ∧ ea = c.operand2.toInt + c.operand3.toInt)))

/-- The instruction and its address, which no stage changes (R20). -/
def identity (c : InstructionContext) : Word × Record := (c.pc, c.record)

end Sys2Proof.Statements

open Sys2Proof Sys2Proof.Machine Sys2Proof.Statements

/-! ## Encoding -/

/-- Decoding the encoding of any instruction, with any operands, gives it back; so does decoding it as a word of the
opcode table. -/
def Obligations.DecodeOfEncodeIsTheInstruction : Prop :=
  ∀ i : Instr, decode (encode i) = .ok i ∧ decodeTableWord 64 (encode i).toNat = some i

/-- No bit of a record is dropped: packing a decoded record gives its word, and a canonical word is the encoding of
the instruction it decodes to. -/
def Obligations.EncodeOfDecodedWordIsTheWord : Prop :=
  ∀ (w : RecordWord) (r : Record), decodeRecord w = .ok r →
    r.word = w ∧ (r.canonical = true → encode r.instr = w)

/-- The decoder accepts exactly the legal words of R69 and refuses the others by name, the opcode first. -/
def Obligations.DecoderAcceptsExactlyLegalWords : Prop :=
  ∀ w : RecordWord,
    ((∃ i, decode w = .ok i) ↔ (w.extractLsb' 56 8).toNat ≤ 0x12 ∧ w.extractLsb' 32 8 = 0#8) ∧
    (0x12 < (w.extractLsb' 56 8).toNat → decode w = .error (.reservedOpcode (w.extractLsb' 56 8))) ∧
    ((w.extractLsb' 56 8).toNat ≤ 0x12 → w.extractLsb' 32 8 ≠ 0#8 →
      decode w = .error (.reservedByte (w.extractLsb' 32 8))) ∧
    (legalWord w = true ↔ ∃ i, decode w = .ok i)

/-- Words written out from 95_test_vectors.md Part 4 decode to the instructions they stand for. -/
def Obligations.WrittenOutWordsDecode : Prop :=
  decode 0x0131200000000000#64 = .ok (.add 3#4 1#4 2#4) ∧
  decode 0x06210000FFFFFFF9#64 = .ok (.addl 2#4 1#4 (BitVec.ofInt 32 (-7))) ∧
  decode 0x0B31200000000000#64 = .ok (.div 3#4 1#4 2#4) ∧
  decode 0x110FED0000000000#64 = .ok (.str 15#4 14#4 13#4) ∧
  decode 0x0D000000FFFFFFF8#64 = .ok (.bnz (BitVec.ofInt 32 (-8))) ∧
  decode 0x1200000000000000#64 = .ok .halt ∧
  decode 0x1300000000000000#64 = .error (.reservedOpcode 0x13#8)

/-- Two records that agree on the fields their format uses are the same instruction. -/
def Obligations.UnusedRecordFieldsAreIgnored : Prop :=
  ∀ r r' : Record, r.op = r'.op →
    (r.op.format.uses.rd = true → r.rd = r'.rd) → (r.op.format.uses.rs1 = true → r.rs1 = r'.rs1) →
    (r.op.format.uses.rs2 = true → r.rs2 = r'.rs2) → (r.op.format.uses.rs3 = true → r.rs3 = r'.rs3) →
    (r.op.format.uses.imm = true → r.imm = r'.imm) → r.instr = r'.instr

/-- `wrap32(n)` is the value in `[-2^31, 2^31-1]` congruent to `n` modulo `2^32`, and only that one. -/
def Obligations.WrapIsTheUniqueCongruentValue : Prop :=
  ∀ n : Int, (-2147483648 ≤ (wrap32 n).toInt ∧ (wrap32 n).toInt ≤ 2147483647 ∧
      (wrap32 n).toInt % 4294967296 = n % 4294967296) ∧
    ∀ m : Int, -2147483648 ≤ m → m ≤ 2147483647 → m % 4294967296 = n % 4294967296 → m = (wrap32 n).toInt

/-! ## Reset and initialization -/

/-- What `initialize` leaves (R28), for every table and parameters it accepts; and what an edge with `rst` high
leaves. The instruction fields of `LF` are unspecified in R28, so nothing is said of them. -/
def Obligations.ResetLeavesTheseValues : Prop :=
  (∀ (table : List RecordWord) (pcBase : Int) (n : Nat) (init : Option (List Word)) (s : State),
    initializeRun table pcBase n init = .ok s →
    (∀ r : Reg, s.reg r = 0#32 ∧ s.pending r = false) ∧ s.z = false ∧ s.pc.toInt = pcBase ∧
    s.clk = 0#64 ∧ s.retired = 0#64 ∧ s.status = .running ∧
    s.fault.kind.code = 0#2 ∧ s.fault.pc = 0#32 ∧ s.fault.op = 0#8 ∧ s.fen = true ∧ s.redir = false ∧
    s.ld = Latch.empty ∧ s.lx = Latch.empty ∧ s.lm = Latch.empty ∧ s.lw = Latch.empty ∧ s.lf.stall = false ∧
    (init = none → ∀ a, s.word a = 0#32) ∧
    (∀ words, init = some words → ∀ (a : Nat) (h : a < words.length), s.word a = words[a])) ∧
  (∀ (pcBase : Word) (s t : State), resetEdge pcBase s = .ok t →
    (∀ r : Reg, t.reg r = 0#32 ∧ t.pending r = false) ∧ t.z = false ∧ t.pc = pcBase ∧
    t.clk = 0#64 ∧ t.retired = 0#64 ∧ t.status = .running ∧
    t.fault.kind.code = 0#2 ∧ t.fault.pc = 0#32 ∧ t.fault.op = 0#8 ∧ t.fen = true ∧ t.redir = false ∧
    t.ld = Latch.empty ∧ t.lx = Latch.empty ∧ t.lm = Latch.empty ∧ t.lw = Latch.empty ∧ t.lf.stall = false ∧
    t.dmem = s.params.dmemInit)

/-- `initialize` fails exactly on the tables and parameters R193 lists. -/
def Obligations.InitializeRefusesExactly : Prop :=
  ∀ (table : List RecordWord) (pcBase : Int) (n : Nat) (init : Option (List Word)),
    (∃ e, initializeRun table pcBase n init = .error e) ↔
      (table.length = 0 ∨ (∃ w ∈ table, 0x12 < (w.extractLsb' 56 8).toNat ∨ w.extractLsb' 32 8 ≠ 0#8) ∨
       pcBase < 0 ∨ pcBase + 4 * (table.length : Int) > 2147483647 ∨
       n < 1 ∨ n > 2147483648 ∨ ∃ words, init = some words ∧ words.length ≠ n)

/-- The state after reset satisfies the invariant (the model's own invariant; its parameters are the spec's defaults,
notes/assumptions/3.md). -/
def Obligations.ResetSatisfiesInvariant : Prop := State.reset.Inv

/-- Every state `initialize` makes satisfies the invariant. -/
def Obligations.InitializeEstablishesInvariant : Prop :=
  ∀ (table : List RecordWord) (pcBase : Int) (n : Nat) (init : Option (List Word)) (s : State),
    initializeRun table pcBase n init = .ok s → s.Inv

/-! ## The tick -/

/-- Every step keeps the invariant: canonical bounded memory, exact scoreboard, latch invariants, HALT alone, the shape
of `Halted` and `Faulted` states (R11, R19, R20, R22, R89, R182, R196). -/
def Obligations.EveryStepKeepsInvariant : Prop :=
  ∀ s t : State, s.Inv → step s = .next t → t.Inv

/-- A state that satisfies the invariant always has a next state: no stop of the model is ever reached. -/
def Obligations.InvariantStatesNeverStop : Prop :=
  ∀ s : State, s.Inv → ∃ t, step s = .next t

/-- In `Halted` or `Faulted` a tick changes nothing, and so does a clock edge with `rst` low; only an edge with `rst`
high can leave the status. -/
def Obligations.StoppedMachineChangesNothing : Prop :=
  ∀ s : State, s.status ≠ .running → step s = .next s ∧
    ∀ (rst : Bool) (base : Word) (t : State), clockEdge rst base s = .ok (.next t) → t.status ≠ s.status → rst = true

/-- A step runs the decoded instruction. (1) When the instruction in `LX`, as the Writeback and Memory phases of the
tick leave it, is `c.instr`, the step is `exec c.instr` followed by what a tick adds: nothing after a fault, else
Decode, Fetch, the clock count. (2) From a record at the pc with nothing in flight, the third step is that of `exec`
on the record's instruction, in the state the spec gives, with the operands read. -/
def Obligations.StepRunsTheDecodedInstruction : Prop :=
  (∀ (s u v : State) (c : InstructionContext), s.status = .running → wbPhase s = .next u → memPhase u = .next v →
    v.lx.content = some c → step s = andThen (exec c.instr v.clearRedirect) afterExecute) ∧
  (∀ s : State, s.status = .faulted → afterExecute s = .next s) ∧
  (∀ s f : State, s.status ≠ .faulted → fetchPhase (decodePhase s) = .next f →
    afterExecute s = .next { f with clk := f.clk + 1#64, redir := false }) ∧
  (∀ (s : State) (r : Record), FetchedAlone s r →
    ∃ u, RunsTo 2 s u ∧ u.lx.content = some (s.readOperands (fetchedContext s.pc r)) ∧
      u.ld.content = none ∧ u.z = s.z ∧ u.params = s.params ∧
      step u = andThen (exec r.instr u) afterExecute)

/-- A placed record runs at the very next step. This is the model's choice of what placing a record means
(notes/assumptions/4.md), not a rule of the spec: the word stands in the table at the pc, its instruction stands alone in
`LX` with the operands read, registers, flag, memory and counters are untouched, and the next step is `exec` of it
followed by what a tick adds. -/
def Obligations.PlacedRecordRunsAtTheNextStep : Prop :=
  ∀ (s : State) (nbits w : Nat) (r : Record), decodeRecord (tableWord nbits w) = .ok r →
    (s.withFetchWord nbits w).recordAt s.pc = some (tableWord nbits w) ∧
    (s.withFetchWord nbits w).lx.content = some (s.readOperands (fetchedContext s.pc r)) ∧
    (s.withFetchWord nbits w).ld.content = none ∧ (s.withFetchWord nbits w).lm.content = none ∧
    (s.withFetchWord nbits w).lw.content = none ∧ (s.withFetchWord nbits w).status = .running ∧
    (s.withFetchWord nbits w).x = s.x ∧ (s.withFetchWord nbits w).z = s.z ∧ (s.withFetchWord nbits w).dmem = s.dmem ∧
    (s.withFetchWord nbits w).clk = s.clk ∧ (s.withFetchWord nbits w).retired = s.retired ∧
    step (s.withFetchWord nbits w) = andThen (exec r.instr (s.withFetchWord nbits w)) afterExecute

/-- `CLK` counts every tick that runs to its end, not the tick a fault aborts; `REDIR` is 0 after every tick. -/
def Obligations.ClockCountsCompletedTicks : Prop :=
  ∀ s t : State, s.status = .running → step s = .next t →
    (t.status ≠ .faulted → t.clk = s.clk + 1#64) ∧ (t.status = .faulted → t.clk = s.clk) ∧ t.redir = false

/-- Each tick retires the instruction in `LW`, if there is one, whatever its opcode, and counts it once. -/
def Obligations.RetiredCountsEachWriteback : Prop :=
  ∀ s t : State, s.status = .running → step s = .next t →
    (s.lw.content.isSome = true → t.retired = s.retired + 1#64) ∧ (s.lw.content = none → t.retired = s.retired)

/-- In a tick without a fault every instruction in `LX` and `LM` moves one stage, and the instruction in `LD` moves one
stage, stays, or is flushed by a taken branch (R92, R170): `LW` holds what was in `LM`, `LM` what was in `LX`, `LX` what
was in `LD` or nothing, `LD` what was in `LD` (and then nothing was issued), or what stood at the pc, or nothing. That a
flush needs a taken branch is `WithoutTakenBranchDecodeIssuesOrKeeps`. -/
def Obligations.InstructionsAdvanceOneStagePerTick : Prop :=
  ∀ s t : State, s.status = .running → step s = .next t → t.status ≠ .faulted →
    t.lw.content.map identity = s.lm.content.map identity ∧
    t.lm.content.map identity = s.lx.content.map identity ∧
    (t.lx.content = none ∨ t.lx.content.map identity = s.ld.content.map identity) ∧
    (t.ld.content = none ∨ (t.ld.content = s.ld.content ∧ t.lx.content = none) ∨
      ∃ w r, s.recordAt s.pc = some w ∧ decodeRecord w = .ok r ∧ t.ld.content = some (fetchedContext s.pc r))

/-- In a tick without a fault in which `LX` holds no taken branch, the instruction in `LD` is issued or kept: it stands in
`LX`, or it is still in `LD` and `LX` is empty. -/
def Obligations.WithoutTakenBranchDecodeIssuesOrKeeps : Prop :=
  ∀ (s t : State) (c : InstructionContext), s.status = .running → step s = .next t → t.status ≠ .faulted →
    s.ld.content = some c →
    (∀ (b : InstructionContext) (imm : Word), s.lx.content = some b →
      ¬ ((b.instr = .bz imm ∧ s.z = true) ∨ (b.instr = .bnz imm ∧ s.z = false))) →
    t.lx.content.map identity = some (identity c) ∨ (t.ld.content = some c ∧ t.lx.content = none)

/-- The Writeback phase does nothing when `LW` is empty, and else commits the instruction in `LW`: register and scoreboard bit, stall release, store, retirement
count, halt; and nothing else. The premise is R8's: the address of a store was checked. -/
def Obligations.WritebackCommitsOneInstruction : Prop :=
  (∀ s : State, s.lw.content = none → wbPhase s = .next s) ∧
  ∀ (s : State) (c : InstructionContext), s.lw.content = some c →
    (storeClass c.instr = true → c.addrField < s.params.dmemWords) →
    ∃ t, wbPhase s = .next t ∧
      (∀ rd, destination c.instr = some rd →
        (∀ r : Reg, t.reg r = if r = rd then c.resultField else s.reg r) ∧
        (∀ r : Reg, t.pending r = if r = rd then false else s.pending r) ∧
        t.ld.stall = false ∧ t.lf.stall = false) ∧
      (destination c.instr = none →
        t.x = s.x ∧ t.pend = s.pend ∧ t.ld.stall = s.ld.stall ∧ t.lf.stall = s.lf.stall) ∧
      t.ld.content = s.ld.content ∧ t.lf.last = s.lf.last ∧
      (storeClass c.instr = true → t.dmem = Memory.write s.dmem c.addrField c.resultField) ∧
      (storeClass c.instr = true → Memory.wf s.dmem = true →
        ∀ a, t.word a = if a = c.addrField then c.resultField else s.word a) ∧
      (storeClass c.instr = false → t.dmem = s.dmem) ∧
      t.retired = s.retired + 1#64 ∧
      t.status = (if c.instr = .halt then .halted else s.status) ∧
      t.lw = { s.lw with content := none } ∧ t.lx = s.lx ∧ t.lm = s.lm ∧
      t.z = s.z ∧ t.pc = s.pc ∧ t.clk = s.clk ∧ t.fault = s.fault ∧ t.fen = s.fen ∧ t.redir = s.redir ∧
      t.params = s.params ∧ t.table = s.table

/-- The Memory phase: nothing when `LM` is empty; the word into `result` for a load; every other instruction passed on
unchanged; `LW` filled, `LM` emptied, nothing else changed. The premise is R8's: the address was checked. -/
def Obligations.MemoryPhaseLoadsOrPassesOn : Prop :=
  (∀ s : State, s.lm.content = none → memPhase s = .next s) ∧
  (∀ (s : State) (c : InstructionContext), s.lm.content = some c →
    (loadClass c.instr = true → c.addrField < s.params.dmemWords →
      memPhase s = .next { s with
        lw := { s.lw with content := some { c with result := some (s.word c.addrField) } }
        lm := { s.lm with content := none } }) ∧
    (loadClass c.instr = false →
      memPhase s = .next { s with
        lw := { s.lw with content := some c }
        lm := { s.lm with content := none } }))

/-- The hazard check: a source the instruction reads is pending, or its destination is. -/
def Obligations.HazardIsAPendingOperand : Prop :=
  ∀ (s : State) (i : Instr), s.hazard i = true ↔
    ∃ r : Reg, s.pending r = true ∧
      (source1 i = some r ∨ source2 i = some r ∨ source3 i = some r ∨ destination i = some r)

/-- The Decode phase: nothing when `LD` is empty; on a hazard the two stall flags and nothing else; otherwise the
operands read, the destination marked, the instruction in `LX`, `LD` empty, the flags cleared, and nothing else. -/
def Obligations.DecodeStallsOrIssues : Prop :=
  (∀ s : State, s.ld.content = none → decodePhase s = s) ∧
  (∀ (s : State) (c : InstructionContext), s.ld.content = some c →
    (s.hazard c.instr = true →
      decodePhase s = { s with ld := { s.ld with stall := true }, lf := { s.lf with stall := true } }) ∧
    (s.hazard c.instr = false → ∃ d : InstructionContext,
      (∀ r, source1 c.instr = some r → d.v1 = some (s.reg r)) ∧ (source1 c.instr = none → d.v1 = c.v1) ∧
      (∀ r, source2 c.instr = some r → d.v2 = some (s.reg r)) ∧ (source2 c.instr = none → d.v2 = c.v2) ∧
      (∀ r, source3 c.instr = some r → d.v3 = some (s.reg r)) ∧ (source3 c.instr = none → d.v3 = c.v3) ∧
      d.pc = c.pc ∧ d.record = c.record ∧ d.result = c.result ∧ d.addr = c.addr ∧
      (∀ rd, destination c.instr = some rd → decodePhase s = { s with
        pend := s.pend.set rd.toNat true rd.isLt
        lx := { s.lx with content := some d }
        ld := { content := none, stall := false }
        lf := { s.lf with stall := false } }) ∧
      (destination c.instr = none → decodePhase s = { s with
        lx := { s.lx with content := some d }
        ld := { content := none, stall := false }
        lf := { s.lf with stall := false } })))

/-- The Fetch phase's four tests in order: a redirect, fetch shut or Decode still holding an instruction change
nothing; no record at the pc shuts fetch; a record fills `LF` and `LD`, advances the pc by 4 and shuts fetch when it
is a HALT. -/
def Obligations.FetchFollowsItsFourTests : Prop :=
  (∀ s : State, s.redir = true → fetchPhase s = .next s) ∧
  (∀ s : State, s.redir = false → s.fen = false → fetchPhase s = .next s) ∧
  (∀ s : State, s.redir = false → s.fen = true → s.ld.content.isSome = true → fetchPhase s = .next s) ∧
  (∀ s : State, s.redir = false → s.fen = true → s.ld.content = none → s.recordAt s.pc = none →
    fetchPhase s = .next { s with fen := false }) ∧
  (∀ (s : State) (w : RecordWord) (r : Record), s.redir = false → s.fen = true → s.ld.content = none →
    s.recordAt s.pc = some w → decodeRecord w = .ok r →
    fetchPhase s = .next { s with
      lf := { last := some { pc := s.pc, record := r }, stall := false }
      ld := { content := some { pc := s.pc, record := r }, stall := false }
      pc := wrap32 (s.pc.toInt + 4)
      fen := !(r.op = .halt) })

/-- A taken branch, seen over whole ticks: the tick that executes it leaves the pc at the branch's own address plus the
immediate, fetch open, the younger instruction flushed, nothing issued and nothing fetched; the next tick fetches the
record at the target. -/
def Obligations.TakenBranchFlushesAndSuppressesOneFetch : Prop :=
  ∀ (s t : State) (c : InstructionContext) (imm : Word),
    s.status = .running → s.lx.content = some c →
    ((c.instr = .bz imm ∧ s.z = true) ∨ (c.instr = .bnz imm ∧ s.z = false)) → step s = .next t →
    t.pc = wrap32 (c.pc.toInt + imm.toInt) ∧ t.fen = true ∧ t.redir = false ∧ t.ld = Latch.empty ∧
    t.lf = { s.lf with stall := false } ∧ t.lx.content = none ∧ t.lm.content = some c ∧ t.z = s.z ∧
    (∀ (u : State) (r : Record), t.status = .running → portRecord t = some r → step t = .next u →
      u.ld = { content := some (fetchedContext t.pc r), stall := false } ∧ u.pc = nextPc t.pc)

/-- The tick of a fault: what the Writeback and Memory phases of the tick did stands, `STATUS` and `FAULT` are written,
and nothing else changes (`REDIR` was cleared by Execute). -/
def Obligations.FaultStopsTheTick : Prop :=
  ∀ (s u v : State) (c : InstructionContext) (kind : FaultKind),
    s.status = .running → wbPhase s = .next u → memPhase u = .next v → v.lx.content = some c →
    RaisesFault v.params.dmemWords c kind →
    step s = .next { v with
      status := .faulted, fault := { kind := kind, pc := c.pc, op := c.record.op.code }, redir := false }

/-- The status changes in exactly two ways: to `Faulted` when the instruction in `LX` raises a fault, which is
recorded; to `Halted` when Writeback retires HALT and no fault is raised. -/
def Obligations.StatusChangesOnlyByFaultOrHalt : Prop :=
  ∀ s t : State, s.status = .running → step s = .next t →
    (t.status = .faulted ↔ ∃ c kind, s.lx.content = some c ∧ RaisesFault s.params.dmemWords c kind) ∧
    (∀ c kind, s.lx.content = some c → RaisesFault s.params.dmemWords c kind →
      t.fault = { kind := kind, pc := c.pc, op := c.record.op.code }) ∧
    (t.status = .halted ↔
      s.lw.holdsHalt ∧ ¬ ∃ c kind, s.lx.content = some c ∧ RaisesFault s.params.dmemWords c kind)

/-- The frame of a whole tick: a register changes only to the result of the instruction in `LW` with that destination,
a word of memory only by the store in `LW` at its address, `Z` only by a flag-writing instruction in `LX`; the
parameters and the instruction table never change. -/
def Obligations.TickChangesOnlyWhatItsInstructionsWrite : Prop :=
  ∀ s t : State, step s = .next t →
    (∀ r : Reg, t.reg r = s.reg r ∨
      ∃ c ∈ s.lw.content, destination c.instr = some r ∧ t.reg r = c.resultField) ∧
    (∀ c rd, s.status = .running → s.lw.content = some c → destination c.instr = some rd →
      t.reg rd = c.resultField) ∧
    (Memory.wf s.dmem = true → ∀ a, t.word a = s.word a ∨
      ∃ c ∈ s.lw.content, storeClass c.instr = true ∧ a = c.addrField ∧ t.word a = c.resultField) ∧
    (t.z = s.z ∨ ∃ c ∈ s.lx.content, writesFlag c.instr = true) ∧
    t.params = s.params ∧ t.table = s.table

/-- The stuck state of R182: every tick only counts. -/
def Obligations.StuckMachineOnlyCounts : Prop :=
  ∀ s : State, s.stuck → step s = .next { s with clk := s.clk + 1#64, redir := false }

/-- A load in the Memory phase sees the store that the Writeback phase of the same tick commits to the same word. -/
def Obligations.LoadSeesTheStoreOfTheSameTick : Prop :=
  ∀ (s t : State) (st ld : InstructionContext), s.status = .running → Memory.wf s.dmem = true →
    s.lw.content = some st → storeClass st.instr = true →
    s.lm.content = some ld → loadClass ld.instr = true → ld.addrField = st.addrField →
    step s = .next t →
    t.lw.content = some { ld with result := some st.resultField } ∧ t.word st.addrField = st.resultField

/-- `Rec(a)` is record number `k` exactly when `a` is `PC_BASE + 4*k`, and none at every other pc value. -/
def Obligations.RecordsStandAtStrideFour : Prop :=
  ∀ (pcBase : Word) (table : List RecordWord) (a : Word),
    (∀ w, recordIn pcBase table a = some w ↔
      ∃ k : Nat, a.toInt = pcBase.toInt + 4 * (k : Int) ∧ table[k]? = some w) ∧
    (recordIn pcBase table a = none ↔
      ∀ k : Nat, k < table.length → a.toInt ≠ pcBase.toInt + 4 * (k : Int))

/-- No instruction stalls in three consecutive ticks: after three ticks from a state with the invariant, at least one
of them did not stall Decode (the spec derives this; StructuralStallDeadlock cannot occur). -/
def Obligations.DecodeNeverStallsThreeTicksRunning : Prop :=
  ∀ s t u v : State, s.Inv → s.status = .running → step s = .next t → step t = .next u → step u = .next v →
    ¬ (t.ld.stall = true ∧ u.ld.stall = true ∧ v.ld.stall = true)

/-- The clocked implementation equals the tick, in every state with the invariant (the spec derives this). -/
def Obligations.ClockedEdgeEqualsTick : Prop :=
  ∀ s : State, s.Inv → step s = .next (clockedEdge s)

/-! ## The pipeline against the sequential machine (the spec derives these and did not prove them) -/

/-- If the sequential machine halts, the pipeline halts with the same registers, flag and memory, its count of
executed instructions, nothing pending, nothing in flight, and the pc after the HALT. -/
def Obligations.PipelineHaltsAsTheSequentialMachine : Prop :=
  ∀ (table : List RecordWord) (pcBase : Int) (words : Nat) (init : Option (List Word)) (s : State) (n : Nat)
    (q : SequentialState),
    initializeRun table pcBase words init = .ok s →
    q = sequentialRun s.params table n (SequentialState.initial s.params) → q.status = .halted →
    ∃ k t, RunsTo k s t ∧ t.status = .halted ∧ t.x = q.x ∧ t.z = q.z ∧ t.dmem = q.dmem ∧
      t.retired = BitVec.ofNat 64 q.executed ∧ (∀ r : Reg, t.pending r = false) ∧
      t.ld.content = none ∧ t.backEmpty ∧ t.pc = nextPc q.apc

/-- If the sequential machine faults, the pipeline faults with the same fault record and flag, and its registers and
memory are the sequential machine's once the one instruction that may still stand in `LW` is committed. -/
def Obligations.PipelineFaultsAsTheSequentialMachine : Prop :=
  ∀ (table : List RecordWord) (pcBase : Int) (words : Nat) (init : Option (List Word)) (s : State) (n : Nat)
    (q : SequentialState) (kind : FaultKind) (pc : Word) (op : BitVec 8),
    initializeRun table pcBase words init = .ok s →
    q = sequentialRun s.params table n (SequentialState.initial s.params) → q.status = .faulted kind pc op →
    ∃ k t u, RunsTo k s t ∧ t.status = .faulted ∧ t.fault = { kind := kind, pc := pc, op := op } ∧ t.z = q.z ∧
      wbPhase t = .next u ∧ u.x = q.x ∧ u.dmem = q.dmem

/-- If the sequential machine never halts and never faults, the pipeline runs for ever: every number of ticks answers
a next state, still running. -/
def Obligations.PipelineRunsOnAsTheSequentialMachine : Prop :=
  ∀ (table : List RecordWord) (pcBase : Int) (words : Nat) (init : Option (List Word)) (s : State),
    initializeRun table pcBase words init = .ok s →
    (∀ n, (sequentialRun s.params table n (SequentialState.initial s.params)).status = .running ∨
      (sequentialRun s.params table n (SequentialState.initial s.params)).status = .stuck) →
    ∀ k, ∃ t, RunsTo k s t ∧ t.status = .running

/-! ## What exec answers, per instruction -/

/-- ADD, SUB, AND, OR, XOR, MUL in the Execute phase, for every state with an occupied `LX`. -/
def Obligations.RegisterArithmeticExecutes : Prop :=
  ∀ rd rs1 rs2 : Reg,
    ExecutesTo (.add rd rs1 rs2) (fun c => wrap32 (c.operand1.toInt + c.operand2.toInt)) ∧
    ExecutesTo (.sub rd rs1 rs2) (fun c => wrap32 (c.operand1.toInt - c.operand2.toInt)) ∧
    ExecutesTo (.and rd rs1 rs2) (fun c => c.operand1 &&& c.operand2) ∧
    ExecutesTo (.or rd rs1 rs2) (fun c => c.operand1 ||| c.operand2) ∧
    ExecutesTo (.xor rd rs1 rs2) (fun c => c.operand1 ^^^ c.operand2) ∧
    ExecutesTo (.mul rd rs1 rs2) (fun c => wrap32 (c.operand1.toInt * c.operand2.toInt))

/-- ADDL, SUBL, MOVC in the Execute phase, for every state with an occupied `LX`. -/
def Obligations.ImmediateArithmeticExecutes : Prop :=
  ∀ (rd rs1 : Reg) (imm : Word),
    ExecutesTo (.addl rd rs1 imm) (fun c => wrap32 (c.operand1.toInt + imm.toInt)) ∧
    ExecutesTo (.subl rd rs1 imm) (fun c => wrap32 (c.operand1.toInt - imm.toInt)) ∧
    ExecutesTo (.movc rd imm) (fun _ => imm)

/-- CMP in the Execute phase: `Z` and nothing else, no result. -/
def Obligations.CompareExecutes : Prop :=
  ∀ (rs1 rs2 : Reg) (s : State) (c : InstructionContext), s.lx.content = some c →
    exec (.cmp rs1 rs2) s = .next { s with
      z := c.operand1 == c.operand2
      lm := { s.lm with content := some c }
      lx := { s.lx with content := none } }

/-- DIV in the Execute phase: the quotient rounded toward zero, or, for divisor 0, the ArithmeticFault. -/
def Obligations.DivideExecutes : Prop :=
  ∀ (rd rs1 rs2 : Reg) (s : State) (c : InstructionContext), s.lx.content = some c →
    (c.operand2 ≠ 0#32 → exec (.div rd rs1 rs2) s = .next { s with
      z := wrap32 (c.operand1.toInt.tdiv c.operand2.toInt) == 0#32
      lm := { s.lm with content := some { c with result := some (wrap32 (c.operand1.toInt.tdiv c.operand2.toInt)) } }
      lx := { s.lx with content := none } }) ∧
    (c.operand2 = 0#32 → exec (.div rd rs1 rs2) s = .next { s with
      status := .faulted, fault := { kind := .arithmetic, pc := c.pc, op := c.record.op.code } })

/-- LOAD and LDR in the Execute phase with the effective address in range. -/
def Obligations.LoadsExecute : Prop :=
  ∀ (rd rs1 rs2 : Reg) (imm : Word),
    ExecutesAddress (.load rd rs1 imm) (fun c => c.operand1) (fun _ => imm) (fun c => c.result) ∧
    ExecutesAddress (.ldr rd rs1 rs2) (fun c => c.operand1) (fun c => c.operand2) (fun c => c.result)

/-- STORE and STR in the Execute phase with the effective address in range: the data goes into `result`. -/
def Obligations.StoresExecute : Prop :=
  ∀ (rs1 rs2 rs3 : Reg) (imm : Word),
    ExecutesAddress (.store rs1 rs2 imm) (fun c => c.operand2) (fun _ => imm) (fun c => some c.operand1) ∧
    ExecutesAddress (.str rs1 rs2 rs3) (fun c => c.operand2) (fun c => c.operand3) (fun c => some c.operand1)

/-- LOAD, LDR, STORE, STR in the Execute phase with the effective address out of range. -/
def Obligations.OutOfRangeAddressEntersFaulted : Prop :=
  ∀ (rd rs1 rs2 rs3 : Reg) (imm : Word),
    ExecutesAddressFault (.load rd rs1 imm) (fun c => c.operand1) (fun _ => imm) ∧
    ExecutesAddressFault (.ldr rd rs1 rs2) (fun c => c.operand1) (fun c => c.operand2) ∧
    ExecutesAddressFault (.store rs1 rs2 imm) (fun c => c.operand2) (fun _ => imm) ∧
    ExecutesAddressFault (.str rs1 rs2 rs3) (fun c => c.operand2) (fun c => c.operand3)

/-- BZ and BNZ in the Execute phase, taken and not taken. -/
def Obligations.BranchesExecute : Prop :=
  ∀ imm : Word,
    BranchExecutes (.bz imm) imm (fun s => s.z) ∧ BranchExecutes (.bnz imm) imm (fun s => !s.z)

/-- NOP and HALT pass through the Execute phase. -/
def Obligations.NopAndHaltExecute : Prop :=
  ∀ (i : Instr) (s : State) (c : InstructionContext), i = .nop ∨ i = .halt → s.lx.content = some c →
    exec i s = .next { s with lm := { s.lm with content := some c }, lx := { s.lx with content := none } }

/-- With `LX` empty the Execute phase only clears `REDIR`, and no instruction's meaning changes anything. -/
def Obligations.EmptyExecuteLatchDoesNothing : Prop :=
  ∀ (i : Instr) (s : State), s.lx.content = none →
    exec i s = .next s ∧ exPhase s = .next { s with redir := false }

/-! ## The rules of the instructions, from the encoding to the retirement -/

/-- ADD, SUB, AND, OR, XOR, MUL: encoding, hazard, Execute phase, and the architectural effect of the instruction alone
in the pipeline. -/
def Obligations.RegisterArithmeticRules : Prop :=
  RegisterRule .add 0x01#8 (fun a b => wrap32 (a.toInt + b.toInt)) ∧
  RegisterRule .sub 0x02#8 (fun a b => wrap32 (a.toInt - b.toInt)) ∧
  RegisterRule .and 0x03#8 (fun a b => a &&& b) ∧
  RegisterRule .or 0x04#8 (fun a b => a ||| b) ∧
  RegisterRule .xor 0x05#8 (fun a b => a ^^^ b) ∧
  RegisterRule .mul 0x08#8 (fun a b => wrap32 (a.toInt * b.toInt))

/-- ADDL, SUBL and MOVC: encoding, hazard, Execute phase, architectural effect alone. -/
def Obligations.ImmediateArithmeticRules : Prop :=
  ImmediateRule .addl 0x06#8 (fun a b => wrap32 (a.toInt + b.toInt)) ∧
  ImmediateRule .subl 0x07#8 (fun a b => wrap32 (a.toInt - b.toInt)) ∧
  (∀ (rd : Reg) (imm : Word),
    encode (.movc rd imm) = 0x0A#8 ++ rd ++ 0#4 ++ 0#4 ++ 0#4 ++ 0#8 ++ imm ∧
    (∀ s : State, s.hazard (.movc rd imm) = s.pending rd) ∧
    ExecutesTo (.movc rd imm) (fun _ => imm) ∧ RetiresWriting (.movc rd imm) rd (fun _ => imm))

/-- CMP: encoding, hazard, and alone it retires in five ticks having changed `Z` only. -/
def Obligations.CompareRule : Prop :=
  ∀ rs1 rs2 : Reg,
    encode (.cmp rs1 rs2) = 0x09#8 ++ 0#4 ++ rs1 ++ rs2 ++ 0#4 ++ 0#8 ++ 0#32 ∧
    (∀ s : State, s.hazard (.cmp rs1 rs2) = (s.pending rs1 || s.pending rs2)) ∧
    (∀ (s : State) (c : InstructionContext), s.lx.content = some c →
      exec (.cmp rs1 rs2) s = .next { s with
        z := c.operand1 == c.operand2
        lm := { s.lm with content := some c }
        lx := { s.lx with content := none } }) ∧
    (∀ (s : State) (r : Record), FetchedAlone s r → r.instr = .cmp rs1 rs2 →
      RunsTo 5 s { afterAlone s r with z := s.reg rs1 == s.reg rs2 })

/-- DIV: encoding, hazard, Execute phase, and alone the quotient in `x[rd]` after five ticks, or for divisor 0 the
`Faulted` state after the third, with `x[rd]` unchanged and still pending. -/
def Obligations.DivideRule : Prop :=
  ∀ rd rs1 rs2 : Reg,
    encode (.div rd rs1 rs2) = 0x0B#8 ++ rd ++ rs1 ++ rs2 ++ 0#4 ++ 0#8 ++ 0#32 ∧
    (∀ s : State, s.hazard (.div rd rs1 rs2) = (s.pending rs1 || s.pending rs2 || s.pending rd)) ∧
    (∀ (s : State) (c : InstructionContext), s.lx.content = some c →
      (c.operand2 ≠ 0#32 → exec (.div rd rs1 rs2) s = .next { s with
        z := wrap32 (c.operand1.toInt.tdiv c.operand2.toInt) == 0#32
        lm := { s.lm with content := some { c with result := some (wrap32 (c.operand1.toInt.tdiv c.operand2.toInt)) } }
        lx := { s.lx with content := none } }) ∧
      (c.operand2 = 0#32 → exec (.div rd rs1 rs2) s = .next { s with
        status := .faulted, fault := { kind := .arithmetic, pc := c.pc, op := c.record.op.code } })) ∧
    (∀ (s : State) (r : Record), FetchedAlone s r → r.instr = .div rd rs1 rs2 →
      (s.reg rs2 ≠ 0#32 → RunsTo 5 s { afterAlone s r with
        x := s.x.set rd.toNat (wrap32 ((s.reg rs1).toInt.tdiv (s.reg rs2).toInt)) rd.isLt
        z := wrap32 ((s.reg rs1).toInt.tdiv (s.reg rs2).toInt) == 0#32 }) ∧
      (s.reg rs2 = 0#32 → RunsTo 3 s
        { afterAloneFault s r .arithmetic (some (s.reg rs1)) (some (s.reg rs2)) none with
          pend := s.pend.set rd.toNat true rd.isLt }))

/-- LOAD and LDR: encoding, hazard, Execute phase, and the effect alone: the word in `x[rd]` after five ticks, `Z`
unchanged, or the AddressFault in the third. -/
def Obligations.LoadRules : Prop :=
  ∀ (rd rs1 rs2 : Reg) (imm : Word),
    encode (.load rd rs1 imm) = 0x0E#8 ++ rd ++ rs1 ++ 0#4 ++ 0#4 ++ 0#8 ++ imm ∧
    encode (.ldr rd rs1 rs2) = 0x10#8 ++ rd ++ rs1 ++ rs2 ++ 0#4 ++ 0#8 ++ 0#32 ∧
    (∀ s : State, s.hazard (.load rd rs1 imm) = (s.pending rs1 || s.pending rd) ∧
      s.hazard (.ldr rd rs1 rs2) = (s.pending rs1 || s.pending rs2 || s.pending rd)) ∧
    ExecutesAddress (.load rd rs1 imm) (fun c => c.operand1) (fun _ => imm) (fun c => c.result) ∧
    ExecutesAddress (.ldr rd rs1 rs2) (fun c => c.operand1) (fun c => c.operand2) (fun c => c.result) ∧
    LoadRule (.load rd rs1 imm) rd (fun s => (s.reg rs1).toInt + imm.toInt)
      (fun s => some (s.reg rs1)) (fun _ => none) ∧
    LoadRule (.ldr rd rs1 rs2) rd (fun s => (s.reg rs1).toInt + (s.reg rs2).toInt)
      (fun s => some (s.reg rs1)) (fun s => some (s.reg rs2))

/-- STORE and STR: encoding, hazard, Execute phase, and the effect alone: the word written after five ticks, registers
and `Z` unchanged, or the AddressFault in the third. -/
def Obligations.StoreRules : Prop :=
  ∀ (rs1 rs2 rs3 : Reg) (imm : Word),
    encode (.store rs1 rs2 imm) = 0x0F#8 ++ 0#4 ++ rs1 ++ rs2 ++ 0#4 ++ 0#8 ++ imm ∧
    encode (.str rs1 rs2 rs3) = 0x11#8 ++ 0#4 ++ rs1 ++ rs2 ++ rs3 ++ 0#8 ++ 0#32 ∧
    (∀ s : State, s.hazard (.store rs1 rs2 imm) = (s.pending rs1 || s.pending rs2) ∧
      s.hazard (.str rs1 rs2 rs3) = (s.pending rs1 || s.pending rs2 || s.pending rs3)) ∧
    ExecutesAddress (.store rs1 rs2 imm) (fun c => c.operand2) (fun _ => imm) (fun c => some c.operand1) ∧
    ExecutesAddress (.str rs1 rs2 rs3) (fun c => c.operand2) (fun c => c.operand3) (fun c => some c.operand1) ∧
    StoreRule (.store rs1 rs2 imm) (fun s => s.reg rs1) (fun s => (s.reg rs2).toInt + imm.toInt)
      (fun s => some (s.reg rs1)) (fun s => some (s.reg rs2)) (fun _ => none) ∧
    StoreRule (.str rs1 rs2 rs3) (fun s => s.reg rs1) (fun s => (s.reg rs2).toInt + (s.reg rs3).toInt)
      (fun s => some (s.reg rs1)) (fun s => some (s.reg rs2)) (fun s => some (s.reg rs3))

/-- BZ and BNZ: encoding, no hazard ever, Execute phase, and the effect alone, taken and not taken. -/
def Obligations.BranchRules : Prop :=
  BranchRule .bz 0x0C#8 (fun s => s.z) ∧ BranchRule .bnz 0x0D#8 (fun s => !s.z)

/-- NOP and HALT: encoding, no hazard ever, Execute phase, and the effect alone: NOP counts as retired and changes
nothing; HALT ends the run in the fifth tick, which is counted. -/
def Obligations.NopAndHaltRules : Prop :=
  encode .nop = 0x0000000000000000#64 ∧ encode .halt = 0x1200000000000000#64 ∧
  (∀ s : State, s.hazard .nop = false ∧ s.hazard .halt = false) ∧
  (∀ (i : Instr) (s : State) (c : InstructionContext), i = .nop ∨ i = .halt → s.lx.content = some c →
    exec i s = .next { s with lm := { s.lm with content := some c }, lx := { s.lx with content := none } }) ∧
  (∀ (s : State) (r : Record), FetchedAlone s r →
    (r.instr = .nop → RunsTo 5 s (afterAlone s r)) ∧
    (r.instr = .halt → RunsTo 5 s { afterAlone s r with status := .halted }))

/-- The whole table of R152: `v1`, `v2`, the MUL result, the DIV result, none where DIV faults (the spec derives the
rows from R150 and R151). -/
def Sys2Proof.Statements.signTable : List (Int × Int × Int × Option Int) :=
  [(7, 2, 14, some 3), (-7, 2, -14, some (-3)), (7, -2, -14, some (-3)), (-7, -2, 14, some 3), (0, 5, 0, some 0),
   (0, -5, 0, some 0), (5, 0, 0, none), (0, 0, 0, none), (1, 2, 2, some 0), (-1, 2, -2, some 0),
   (-2147483648, -1, -2147483648, some (-2147483648)), (-2147483648, 1, -2147483648, some (-2147483648)),
   (2147483647, 2147483647, 1, some 1), (65536, 65536, 0, some 1), (2147483647, 2, -2, some 1073741823)]

/-- MUL and DIV answer every row of R152, with `Z` 1 exactly for the result 0. -/
def Obligations.MultiplyDivideSignTable : Prop :=
  ∀ row ∈ signTable, ∀ c : InstructionContext,
    c.v1 = some (wrap32 row.1) → c.v2 = some (wrap32 row.2.1) →
    mulUnit c = .ok { result := some (wrap32 row.2.2.1), newZ := some (decide (row.2.2.1 = 0)) } ∧
    divUnit c = match row.2.2.2 with
      | none => .fault .arithmetic
      | some q => .ok { result := some (wrap32 q), newZ := some (decide (q = 0)) }
end

