-- ==== Sys2Proof/Laws/State.lean ====
section
/-! SUPPORT. One lemma per field per named update of State, each true by rfl, so that no later proof unfolds a record
update. -/

namespace Sys2Proof.Machine

/-! ## `State.writeReg` -/

@[simp] theorem State.writeReg_x (s : State) (r : Reg) (v : Word) : (s.writeReg r v).x = s.x.set r.toNat v r.isLt := rfl
@[simp] theorem State.writeReg_pend (s : State) (r : Reg) (v : Word) : (s.writeReg r v).pend = s.pend := rfl
@[simp] theorem State.writeReg_z (s : State) (r : Reg) (v : Word) : (s.writeReg r v).z = s.z := rfl
@[simp] theorem State.writeReg_pc (s : State) (r : Reg) (v : Word) : (s.writeReg r v).pc = s.pc := rfl
@[simp] theorem State.writeReg_clk (s : State) (r : Reg) (v : Word) : (s.writeReg r v).clk = s.clk := rfl
@[simp] theorem State.writeReg_retired (s : State) (r : Reg) (v : Word) : (s.writeReg r v).retired = s.retired := rfl
@[simp] theorem State.writeReg_status (s : State) (r : Reg) (v : Word) : (s.writeReg r v).status = s.status := rfl
@[simp] theorem State.writeReg_fault (s : State) (r : Reg) (v : Word) : (s.writeReg r v).fault = s.fault := rfl
@[simp] theorem State.writeReg_fen (s : State) (r : Reg) (v : Word) : (s.writeReg r v).fen = s.fen := rfl
@[simp] theorem State.writeReg_redir (s : State) (r : Reg) (v : Word) : (s.writeReg r v).redir = s.redir := rfl
@[simp] theorem State.writeReg_lf (s : State) (r : Reg) (v : Word) : (s.writeReg r v).lf = s.lf := rfl
@[simp] theorem State.writeReg_ld (s : State) (r : Reg) (v : Word) : (s.writeReg r v).ld = s.ld := rfl
@[simp] theorem State.writeReg_lx (s : State) (r : Reg) (v : Word) : (s.writeReg r v).lx = s.lx := rfl
@[simp] theorem State.writeReg_lm (s : State) (r : Reg) (v : Word) : (s.writeReg r v).lm = s.lm := rfl
@[simp] theorem State.writeReg_lw (s : State) (r : Reg) (v : Word) : (s.writeReg r v).lw = s.lw := rfl
@[simp] theorem State.writeReg_dmem (s : State) (r : Reg) (v : Word) : (s.writeReg r v).dmem = s.dmem := rfl
@[simp] theorem State.writeReg_params (s : State) (r : Reg) (v : Word) : (s.writeReg r v).params = s.params := rfl
@[simp] theorem State.writeReg_table (s : State) (r : Reg) (v : Word) : (s.writeReg r v).table = s.table := rfl

/-! ## `State.setPending` -/

@[simp] theorem State.setPending_x (s : State) (r : Reg) (b : Bool) : (s.setPending r b).x = s.x := rfl
@[simp] theorem State.setPending_pend (s : State) (r : Reg) (b : Bool) : (s.setPending r b).pend = s.pend.set r.toNat b r.isLt := rfl
@[simp] theorem State.setPending_z (s : State) (r : Reg) (b : Bool) : (s.setPending r b).z = s.z := rfl
@[simp] theorem State.setPending_pc (s : State) (r : Reg) (b : Bool) : (s.setPending r b).pc = s.pc := rfl
@[simp] theorem State.setPending_clk (s : State) (r : Reg) (b : Bool) : (s.setPending r b).clk = s.clk := rfl
@[simp] theorem State.setPending_retired (s : State) (r : Reg) (b : Bool) : (s.setPending r b).retired = s.retired := rfl
@[simp] theorem State.setPending_status (s : State) (r : Reg) (b : Bool) : (s.setPending r b).status = s.status := rfl
@[simp] theorem State.setPending_fault (s : State) (r : Reg) (b : Bool) : (s.setPending r b).fault = s.fault := rfl
@[simp] theorem State.setPending_fen (s : State) (r : Reg) (b : Bool) : (s.setPending r b).fen = s.fen := rfl
@[simp] theorem State.setPending_redir (s : State) (r : Reg) (b : Bool) : (s.setPending r b).redir = s.redir := rfl
@[simp] theorem State.setPending_lf (s : State) (r : Reg) (b : Bool) : (s.setPending r b).lf = s.lf := rfl
@[simp] theorem State.setPending_ld (s : State) (r : Reg) (b : Bool) : (s.setPending r b).ld = s.ld := rfl
@[simp] theorem State.setPending_lx (s : State) (r : Reg) (b : Bool) : (s.setPending r b).lx = s.lx := rfl
@[simp] theorem State.setPending_lm (s : State) (r : Reg) (b : Bool) : (s.setPending r b).lm = s.lm := rfl
@[simp] theorem State.setPending_lw (s : State) (r : Reg) (b : Bool) : (s.setPending r b).lw = s.lw := rfl
@[simp] theorem State.setPending_dmem (s : State) (r : Reg) (b : Bool) : (s.setPending r b).dmem = s.dmem := rfl
@[simp] theorem State.setPending_params (s : State) (r : Reg) (b : Bool) : (s.setPending r b).params = s.params := rfl
@[simp] theorem State.setPending_table (s : State) (r : Reg) (b : Bool) : (s.setPending r b).table = s.table := rfl

/-! ## `State.setStalls` -/

@[simp] theorem State.setStalls_x (s : State) (b : Bool) : (s.setStalls b).x = s.x := rfl
@[simp] theorem State.setStalls_pend (s : State) (b : Bool) : (s.setStalls b).pend = s.pend := rfl
@[simp] theorem State.setStalls_z (s : State) (b : Bool) : (s.setStalls b).z = s.z := rfl
@[simp] theorem State.setStalls_pc (s : State) (b : Bool) : (s.setStalls b).pc = s.pc := rfl
@[simp] theorem State.setStalls_clk (s : State) (b : Bool) : (s.setStalls b).clk = s.clk := rfl
@[simp] theorem State.setStalls_retired (s : State) (b : Bool) : (s.setStalls b).retired = s.retired := rfl
@[simp] theorem State.setStalls_status (s : State) (b : Bool) : (s.setStalls b).status = s.status := rfl
@[simp] theorem State.setStalls_fault (s : State) (b : Bool) : (s.setStalls b).fault = s.fault := rfl
@[simp] theorem State.setStalls_fen (s : State) (b : Bool) : (s.setStalls b).fen = s.fen := rfl
@[simp] theorem State.setStalls_redir (s : State) (b : Bool) : (s.setStalls b).redir = s.redir := rfl
@[simp] theorem State.setStalls_lf (s : State) (b : Bool) : (s.setStalls b).lf = { s.lf with stall := b } := rfl
@[simp] theorem State.setStalls_ld (s : State) (b : Bool) : (s.setStalls b).ld = { s.ld with stall := b } := rfl
@[simp] theorem State.setStalls_lx (s : State) (b : Bool) : (s.setStalls b).lx = s.lx := rfl
@[simp] theorem State.setStalls_lm (s : State) (b : Bool) : (s.setStalls b).lm = s.lm := rfl
@[simp] theorem State.setStalls_lw (s : State) (b : Bool) : (s.setStalls b).lw = s.lw := rfl
@[simp] theorem State.setStalls_dmem (s : State) (b : Bool) : (s.setStalls b).dmem = s.dmem := rfl
@[simp] theorem State.setStalls_params (s : State) (b : Bool) : (s.setStalls b).params = s.params := rfl
@[simp] theorem State.setStalls_table (s : State) (b : Bool) : (s.setStalls b).table = s.table := rfl

/-! ## `State.storeWord` -/

@[simp] theorem State.storeWord_x (s : State) (a : Nat) (v : Word) : (s.storeWord a v).x = s.x := rfl
@[simp] theorem State.storeWord_pend (s : State) (a : Nat) (v : Word) : (s.storeWord a v).pend = s.pend := rfl
@[simp] theorem State.storeWord_z (s : State) (a : Nat) (v : Word) : (s.storeWord a v).z = s.z := rfl
@[simp] theorem State.storeWord_pc (s : State) (a : Nat) (v : Word) : (s.storeWord a v).pc = s.pc := rfl
@[simp] theorem State.storeWord_clk (s : State) (a : Nat) (v : Word) : (s.storeWord a v).clk = s.clk := rfl
@[simp] theorem State.storeWord_retired (s : State) (a : Nat) (v : Word) : (s.storeWord a v).retired = s.retired := rfl
@[simp] theorem State.storeWord_status (s : State) (a : Nat) (v : Word) : (s.storeWord a v).status = s.status := rfl
@[simp] theorem State.storeWord_fault (s : State) (a : Nat) (v : Word) : (s.storeWord a v).fault = s.fault := rfl
@[simp] theorem State.storeWord_fen (s : State) (a : Nat) (v : Word) : (s.storeWord a v).fen = s.fen := rfl
@[simp] theorem State.storeWord_redir (s : State) (a : Nat) (v : Word) : (s.storeWord a v).redir = s.redir := rfl
@[simp] theorem State.storeWord_lf (s : State) (a : Nat) (v : Word) : (s.storeWord a v).lf = s.lf := rfl
@[simp] theorem State.storeWord_ld (s : State) (a : Nat) (v : Word) : (s.storeWord a v).ld = s.ld := rfl
@[simp] theorem State.storeWord_lx (s : State) (a : Nat) (v : Word) : (s.storeWord a v).lx = s.lx := rfl
@[simp] theorem State.storeWord_lm (s : State) (a : Nat) (v : Word) : (s.storeWord a v).lm = s.lm := rfl
@[simp] theorem State.storeWord_lw (s : State) (a : Nat) (v : Word) : (s.storeWord a v).lw = s.lw := rfl
@[simp] theorem State.storeWord_dmem (s : State) (a : Nat) (v : Word) : (s.storeWord a v).dmem = Memory.write s.dmem a v := rfl
@[simp] theorem State.storeWord_params (s : State) (a : Nat) (v : Word) : (s.storeWord a v).params = s.params := rfl
@[simp] theorem State.storeWord_table (s : State) (a : Nat) (v : Word) : (s.storeWord a v).table = s.table := rfl

/-! ## `State.countRetired` -/

@[simp] theorem State.countRetired_x (s : State) : (s.countRetired).x = s.x := rfl
@[simp] theorem State.countRetired_pend (s : State) : (s.countRetired).pend = s.pend := rfl
@[simp] theorem State.countRetired_z (s : State) : (s.countRetired).z = s.z := rfl
@[simp] theorem State.countRetired_pc (s : State) : (s.countRetired).pc = s.pc := rfl
@[simp] theorem State.countRetired_clk (s : State) : (s.countRetired).clk = s.clk := rfl
@[simp] theorem State.countRetired_retired (s : State) : (s.countRetired).retired = s.retired + 1#64 := rfl
@[simp] theorem State.countRetired_status (s : State) : (s.countRetired).status = s.status := rfl
@[simp] theorem State.countRetired_fault (s : State) : (s.countRetired).fault = s.fault := rfl
@[simp] theorem State.countRetired_fen (s : State) : (s.countRetired).fen = s.fen := rfl
@[simp] theorem State.countRetired_redir (s : State) : (s.countRetired).redir = s.redir := rfl
@[simp] theorem State.countRetired_lf (s : State) : (s.countRetired).lf = s.lf := rfl
@[simp] theorem State.countRetired_ld (s : State) : (s.countRetired).ld = s.ld := rfl
@[simp] theorem State.countRetired_lx (s : State) : (s.countRetired).lx = s.lx := rfl
@[simp] theorem State.countRetired_lm (s : State) : (s.countRetired).lm = s.lm := rfl
@[simp] theorem State.countRetired_lw (s : State) : (s.countRetired).lw = s.lw := rfl
@[simp] theorem State.countRetired_dmem (s : State) : (s.countRetired).dmem = s.dmem := rfl
@[simp] theorem State.countRetired_params (s : State) : (s.countRetired).params = s.params := rfl
@[simp] theorem State.countRetired_table (s : State) : (s.countRetired).table = s.table := rfl

/-! ## `State.setHalted` -/

@[simp] theorem State.setHalted_x (s : State) : (s.setHalted).x = s.x := rfl
@[simp] theorem State.setHalted_pend (s : State) : (s.setHalted).pend = s.pend := rfl
@[simp] theorem State.setHalted_z (s : State) : (s.setHalted).z = s.z := rfl
@[simp] theorem State.setHalted_pc (s : State) : (s.setHalted).pc = s.pc := rfl
@[simp] theorem State.setHalted_clk (s : State) : (s.setHalted).clk = s.clk := rfl
@[simp] theorem State.setHalted_retired (s : State) : (s.setHalted).retired = s.retired := rfl
@[simp] theorem State.setHalted_status (s : State) : (s.setHalted).status = .halted := rfl
@[simp] theorem State.setHalted_fault (s : State) : (s.setHalted).fault = s.fault := rfl
@[simp] theorem State.setHalted_fen (s : State) : (s.setHalted).fen = s.fen := rfl
@[simp] theorem State.setHalted_redir (s : State) : (s.setHalted).redir = s.redir := rfl
@[simp] theorem State.setHalted_lf (s : State) : (s.setHalted).lf = s.lf := rfl
@[simp] theorem State.setHalted_ld (s : State) : (s.setHalted).ld = s.ld := rfl
@[simp] theorem State.setHalted_lx (s : State) : (s.setHalted).lx = s.lx := rfl
@[simp] theorem State.setHalted_lm (s : State) : (s.setHalted).lm = s.lm := rfl
@[simp] theorem State.setHalted_lw (s : State) : (s.setHalted).lw = s.lw := rfl
@[simp] theorem State.setHalted_dmem (s : State) : (s.setHalted).dmem = s.dmem := rfl
@[simp] theorem State.setHalted_params (s : State) : (s.setHalted).params = s.params := rfl
@[simp] theorem State.setHalted_table (s : State) : (s.setHalted).table = s.table := rfl

/-! ## `State.emptyWriteback` -/

@[simp] theorem State.emptyWriteback_x (s : State) : (s.emptyWriteback).x = s.x := rfl
@[simp] theorem State.emptyWriteback_pend (s : State) : (s.emptyWriteback).pend = s.pend := rfl
@[simp] theorem State.emptyWriteback_z (s : State) : (s.emptyWriteback).z = s.z := rfl
@[simp] theorem State.emptyWriteback_pc (s : State) : (s.emptyWriteback).pc = s.pc := rfl
@[simp] theorem State.emptyWriteback_clk (s : State) : (s.emptyWriteback).clk = s.clk := rfl
@[simp] theorem State.emptyWriteback_retired (s : State) : (s.emptyWriteback).retired = s.retired := rfl
@[simp] theorem State.emptyWriteback_status (s : State) : (s.emptyWriteback).status = s.status := rfl
@[simp] theorem State.emptyWriteback_fault (s : State) : (s.emptyWriteback).fault = s.fault := rfl
@[simp] theorem State.emptyWriteback_fen (s : State) : (s.emptyWriteback).fen = s.fen := rfl
@[simp] theorem State.emptyWriteback_redir (s : State) : (s.emptyWriteback).redir = s.redir := rfl
@[simp] theorem State.emptyWriteback_lf (s : State) : (s.emptyWriteback).lf = s.lf := rfl
@[simp] theorem State.emptyWriteback_ld (s : State) : (s.emptyWriteback).ld = s.ld := rfl
@[simp] theorem State.emptyWriteback_lx (s : State) : (s.emptyWriteback).lx = s.lx := rfl
@[simp] theorem State.emptyWriteback_lm (s : State) : (s.emptyWriteback).lm = s.lm := rfl
@[simp] theorem State.emptyWriteback_lw (s : State) : (s.emptyWriteback).lw = { s.lw with content := none } := rfl
@[simp] theorem State.emptyWriteback_dmem (s : State) : (s.emptyWriteback).dmem = s.dmem := rfl
@[simp] theorem State.emptyWriteback_params (s : State) : (s.emptyWriteback).params = s.params := rfl
@[simp] theorem State.emptyWriteback_table (s : State) : (s.emptyWriteback).table = s.table := rfl

/-! ## `State.toWriteback` -/

@[simp] theorem State.toWriteback_x (s : State) (c : InstructionContext) : (s.toWriteback c).x = s.x := rfl
@[simp] theorem State.toWriteback_pend (s : State) (c : InstructionContext) : (s.toWriteback c).pend = s.pend := rfl
@[simp] theorem State.toWriteback_z (s : State) (c : InstructionContext) : (s.toWriteback c).z = s.z := rfl
@[simp] theorem State.toWriteback_pc (s : State) (c : InstructionContext) : (s.toWriteback c).pc = s.pc := rfl
@[simp] theorem State.toWriteback_clk (s : State) (c : InstructionContext) : (s.toWriteback c).clk = s.clk := rfl
@[simp] theorem State.toWriteback_retired (s : State) (c : InstructionContext) : (s.toWriteback c).retired = s.retired := rfl
@[simp] theorem State.toWriteback_status (s : State) (c : InstructionContext) : (s.toWriteback c).status = s.status := rfl
@[simp] theorem State.toWriteback_fault (s : State) (c : InstructionContext) : (s.toWriteback c).fault = s.fault := rfl
@[simp] theorem State.toWriteback_fen (s : State) (c : InstructionContext) : (s.toWriteback c).fen = s.fen := rfl
@[simp] theorem State.toWriteback_redir (s : State) (c : InstructionContext) : (s.toWriteback c).redir = s.redir := rfl
@[simp] theorem State.toWriteback_lf (s : State) (c : InstructionContext) : (s.toWriteback c).lf = s.lf := rfl
@[simp] theorem State.toWriteback_ld (s : State) (c : InstructionContext) : (s.toWriteback c).ld = s.ld := rfl
@[simp] theorem State.toWriteback_lx (s : State) (c : InstructionContext) : (s.toWriteback c).lx = s.lx := rfl
@[simp] theorem State.toWriteback_lm (s : State) (c : InstructionContext) : (s.toWriteback c).lm = { s.lm with content := none } := rfl
@[simp] theorem State.toWriteback_lw (s : State) (c : InstructionContext) : (s.toWriteback c).lw = { s.lw with content := some c } := rfl
@[simp] theorem State.toWriteback_dmem (s : State) (c : InstructionContext) : (s.toWriteback c).dmem = s.dmem := rfl
@[simp] theorem State.toWriteback_params (s : State) (c : InstructionContext) : (s.toWriteback c).params = s.params := rfl
@[simp] theorem State.toWriteback_table (s : State) (c : InstructionContext) : (s.toWriteback c).table = s.table := rfl

/-! ## `State.clearRedirect` -/

@[simp] theorem State.clearRedirect_x (s : State) : (s.clearRedirect).x = s.x := rfl
@[simp] theorem State.clearRedirect_pend (s : State) : (s.clearRedirect).pend = s.pend := rfl
@[simp] theorem State.clearRedirect_z (s : State) : (s.clearRedirect).z = s.z := rfl
@[simp] theorem State.clearRedirect_pc (s : State) : (s.clearRedirect).pc = s.pc := rfl
@[simp] theorem State.clearRedirect_clk (s : State) : (s.clearRedirect).clk = s.clk := rfl
@[simp] theorem State.clearRedirect_retired (s : State) : (s.clearRedirect).retired = s.retired := rfl
@[simp] theorem State.clearRedirect_status (s : State) : (s.clearRedirect).status = s.status := rfl
@[simp] theorem State.clearRedirect_fault (s : State) : (s.clearRedirect).fault = s.fault := rfl
@[simp] theorem State.clearRedirect_fen (s : State) : (s.clearRedirect).fen = s.fen := rfl
@[simp] theorem State.clearRedirect_redir (s : State) : (s.clearRedirect).redir = false := rfl
@[simp] theorem State.clearRedirect_lf (s : State) : (s.clearRedirect).lf = s.lf := rfl
@[simp] theorem State.clearRedirect_ld (s : State) : (s.clearRedirect).ld = s.ld := rfl
@[simp] theorem State.clearRedirect_lx (s : State) : (s.clearRedirect).lx = s.lx := rfl
@[simp] theorem State.clearRedirect_lm (s : State) : (s.clearRedirect).lm = s.lm := rfl
@[simp] theorem State.clearRedirect_lw (s : State) : (s.clearRedirect).lw = s.lw := rfl
@[simp] theorem State.clearRedirect_dmem (s : State) : (s.clearRedirect).dmem = s.dmem := rfl
@[simp] theorem State.clearRedirect_params (s : State) : (s.clearRedirect).params = s.params := rfl
@[simp] theorem State.clearRedirect_table (s : State) : (s.clearRedirect).table = s.table := rfl

/-! ## `State.setZ` -/

@[simp] theorem State.setZ_x (s : State) (b : Bool) : (s.setZ b).x = s.x := rfl
@[simp] theorem State.setZ_pend (s : State) (b : Bool) : (s.setZ b).pend = s.pend := rfl
@[simp] theorem State.setZ_z (s : State) (b : Bool) : (s.setZ b).z = b := rfl
@[simp] theorem State.setZ_pc (s : State) (b : Bool) : (s.setZ b).pc = s.pc := rfl
@[simp] theorem State.setZ_clk (s : State) (b : Bool) : (s.setZ b).clk = s.clk := rfl
@[simp] theorem State.setZ_retired (s : State) (b : Bool) : (s.setZ b).retired = s.retired := rfl
@[simp] theorem State.setZ_status (s : State) (b : Bool) : (s.setZ b).status = s.status := rfl
@[simp] theorem State.setZ_fault (s : State) (b : Bool) : (s.setZ b).fault = s.fault := rfl
@[simp] theorem State.setZ_fen (s : State) (b : Bool) : (s.setZ b).fen = s.fen := rfl
@[simp] theorem State.setZ_redir (s : State) (b : Bool) : (s.setZ b).redir = s.redir := rfl
@[simp] theorem State.setZ_lf (s : State) (b : Bool) : (s.setZ b).lf = s.lf := rfl
@[simp] theorem State.setZ_ld (s : State) (b : Bool) : (s.setZ b).ld = s.ld := rfl
@[simp] theorem State.setZ_lx (s : State) (b : Bool) : (s.setZ b).lx = s.lx := rfl
@[simp] theorem State.setZ_lm (s : State) (b : Bool) : (s.setZ b).lm = s.lm := rfl
@[simp] theorem State.setZ_lw (s : State) (b : Bool) : (s.setZ b).lw = s.lw := rfl
@[simp] theorem State.setZ_dmem (s : State) (b : Bool) : (s.setZ b).dmem = s.dmem := rfl
@[simp] theorem State.setZ_params (s : State) (b : Bool) : (s.setZ b).params = s.params := rfl
@[simp] theorem State.setZ_table (s : State) (b : Bool) : (s.setZ b).table = s.table := rfl

/-! ## `State.toMemory` -/

@[simp] theorem State.toMemory_x (s : State) (c : InstructionContext) : (s.toMemory c).x = s.x := rfl
@[simp] theorem State.toMemory_pend (s : State) (c : InstructionContext) : (s.toMemory c).pend = s.pend := rfl
@[simp] theorem State.toMemory_z (s : State) (c : InstructionContext) : (s.toMemory c).z = s.z := rfl
@[simp] theorem State.toMemory_pc (s : State) (c : InstructionContext) : (s.toMemory c).pc = s.pc := rfl
@[simp] theorem State.toMemory_clk (s : State) (c : InstructionContext) : (s.toMemory c).clk = s.clk := rfl
@[simp] theorem State.toMemory_retired (s : State) (c : InstructionContext) : (s.toMemory c).retired = s.retired := rfl
@[simp] theorem State.toMemory_status (s : State) (c : InstructionContext) : (s.toMemory c).status = s.status := rfl
@[simp] theorem State.toMemory_fault (s : State) (c : InstructionContext) : (s.toMemory c).fault = s.fault := rfl
@[simp] theorem State.toMemory_fen (s : State) (c : InstructionContext) : (s.toMemory c).fen = s.fen := rfl
@[simp] theorem State.toMemory_redir (s : State) (c : InstructionContext) : (s.toMemory c).redir = s.redir := rfl
@[simp] theorem State.toMemory_lf (s : State) (c : InstructionContext) : (s.toMemory c).lf = s.lf := rfl
@[simp] theorem State.toMemory_ld (s : State) (c : InstructionContext) : (s.toMemory c).ld = s.ld := rfl
@[simp] theorem State.toMemory_lx (s : State) (c : InstructionContext) : (s.toMemory c).lx = { s.lx with content := none } := rfl
@[simp] theorem State.toMemory_lm (s : State) (c : InstructionContext) : (s.toMemory c).lm = { s.lm with content := some c } := rfl
@[simp] theorem State.toMemory_lw (s : State) (c : InstructionContext) : (s.toMemory c).lw = s.lw := rfl
@[simp] theorem State.toMemory_dmem (s : State) (c : InstructionContext) : (s.toMemory c).dmem = s.dmem := rfl
@[simp] theorem State.toMemory_params (s : State) (c : InstructionContext) : (s.toMemory c).params = s.params := rfl
@[simp] theorem State.toMemory_table (s : State) (c : InstructionContext) : (s.toMemory c).table = s.table := rfl

/-! ## `State.redirect` -/

@[simp] theorem State.redirect_x (s : State) (t : Word) : (s.redirect t).x = s.x := rfl
@[simp] theorem State.redirect_pend (s : State) (t : Word) : (s.redirect t).pend = s.pend := rfl
@[simp] theorem State.redirect_z (s : State) (t : Word) : (s.redirect t).z = s.z := rfl
@[simp] theorem State.redirect_pc (s : State) (t : Word) : (s.redirect t).pc = t := rfl
@[simp] theorem State.redirect_clk (s : State) (t : Word) : (s.redirect t).clk = s.clk := rfl
@[simp] theorem State.redirect_retired (s : State) (t : Word) : (s.redirect t).retired = s.retired := rfl
@[simp] theorem State.redirect_status (s : State) (t : Word) : (s.redirect t).status = s.status := rfl
@[simp] theorem State.redirect_fault (s : State) (t : Word) : (s.redirect t).fault = s.fault := rfl
@[simp] theorem State.redirect_fen (s : State) (t : Word) : (s.redirect t).fen = true := rfl
@[simp] theorem State.redirect_redir (s : State) (t : Word) : (s.redirect t).redir = true := rfl
@[simp] theorem State.redirect_lf (s : State) (t : Word) : (s.redirect t).lf = { s.lf with stall := false } := rfl
@[simp] theorem State.redirect_ld (s : State) (t : Word) : (s.redirect t).ld = Latch.empty := rfl
@[simp] theorem State.redirect_lx (s : State) (t : Word) : (s.redirect t).lx = s.lx := rfl
@[simp] theorem State.redirect_lm (s : State) (t : Word) : (s.redirect t).lm = s.lm := rfl
@[simp] theorem State.redirect_lw (s : State) (t : Word) : (s.redirect t).lw = s.lw := rfl
@[simp] theorem State.redirect_dmem (s : State) (t : Word) : (s.redirect t).dmem = s.dmem := rfl
@[simp] theorem State.redirect_params (s : State) (t : Word) : (s.redirect t).params = s.params := rfl
@[simp] theorem State.redirect_table (s : State) (t : Word) : (s.redirect t).table = s.table := rfl

/-! ## `State.enterFault` -/

@[simp] theorem State.enterFault_x (s : State) (k : FaultKind) (c : InstructionContext) : (s.enterFault k c).x = s.x := rfl
@[simp] theorem State.enterFault_pend (s : State) (k : FaultKind) (c : InstructionContext) : (s.enterFault k c).pend = s.pend := rfl
@[simp] theorem State.enterFault_z (s : State) (k : FaultKind) (c : InstructionContext) : (s.enterFault k c).z = s.z := rfl
@[simp] theorem State.enterFault_pc (s : State) (k : FaultKind) (c : InstructionContext) : (s.enterFault k c).pc = s.pc := rfl
@[simp] theorem State.enterFault_clk (s : State) (k : FaultKind) (c : InstructionContext) : (s.enterFault k c).clk = s.clk := rfl
@[simp] theorem State.enterFault_retired (s : State) (k : FaultKind) (c : InstructionContext) : (s.enterFault k c).retired = s.retired := rfl
@[simp] theorem State.enterFault_status (s : State) (k : FaultKind) (c : InstructionContext) : (s.enterFault k c).status = .faulted := rfl
@[simp] theorem State.enterFault_fault (s : State) (k : FaultKind) (c : InstructionContext) : (s.enterFault k c).fault = { kind := k, pc := c.pc, op := c.record.op.code } := rfl
@[simp] theorem State.enterFault_fen (s : State) (k : FaultKind) (c : InstructionContext) : (s.enterFault k c).fen = s.fen := rfl
@[simp] theorem State.enterFault_redir (s : State) (k : FaultKind) (c : InstructionContext) : (s.enterFault k c).redir = s.redir := rfl
@[simp] theorem State.enterFault_lf (s : State) (k : FaultKind) (c : InstructionContext) : (s.enterFault k c).lf = s.lf := rfl
@[simp] theorem State.enterFault_ld (s : State) (k : FaultKind) (c : InstructionContext) : (s.enterFault k c).ld = s.ld := rfl
@[simp] theorem State.enterFault_lx (s : State) (k : FaultKind) (c : InstructionContext) : (s.enterFault k c).lx = s.lx := rfl
@[simp] theorem State.enterFault_lm (s : State) (k : FaultKind) (c : InstructionContext) : (s.enterFault k c).lm = s.lm := rfl
@[simp] theorem State.enterFault_lw (s : State) (k : FaultKind) (c : InstructionContext) : (s.enterFault k c).lw = s.lw := rfl
@[simp] theorem State.enterFault_dmem (s : State) (k : FaultKind) (c : InstructionContext) : (s.enterFault k c).dmem = s.dmem := rfl
@[simp] theorem State.enterFault_params (s : State) (k : FaultKind) (c : InstructionContext) : (s.enterFault k c).params = s.params := rfl
@[simp] theorem State.enterFault_table (s : State) (k : FaultKind) (c : InstructionContext) : (s.enterFault k c).table = s.table := rfl

/-! ## `State.issue` -/

@[simp] theorem State.issue_x (s : State) (c : InstructionContext) : (s.issue c).x = s.x := rfl
@[simp] theorem State.issue_pend (s : State) (c : InstructionContext) : (s.issue c).pend = s.pend := rfl
@[simp] theorem State.issue_z (s : State) (c : InstructionContext) : (s.issue c).z = s.z := rfl
@[simp] theorem State.issue_pc (s : State) (c : InstructionContext) : (s.issue c).pc = s.pc := rfl
@[simp] theorem State.issue_clk (s : State) (c : InstructionContext) : (s.issue c).clk = s.clk := rfl
@[simp] theorem State.issue_retired (s : State) (c : InstructionContext) : (s.issue c).retired = s.retired := rfl
@[simp] theorem State.issue_status (s : State) (c : InstructionContext) : (s.issue c).status = s.status := rfl
@[simp] theorem State.issue_fault (s : State) (c : InstructionContext) : (s.issue c).fault = s.fault := rfl
@[simp] theorem State.issue_fen (s : State) (c : InstructionContext) : (s.issue c).fen = s.fen := rfl
@[simp] theorem State.issue_redir (s : State) (c : InstructionContext) : (s.issue c).redir = s.redir := rfl
@[simp] theorem State.issue_lf (s : State) (c : InstructionContext) : (s.issue c).lf = { s.lf with stall := false } := rfl
@[simp] theorem State.issue_ld (s : State) (c : InstructionContext) : (s.issue c).ld = Latch.empty := rfl
@[simp] theorem State.issue_lx (s : State) (c : InstructionContext) : (s.issue c).lx = { s.lx with content := some c } := rfl
@[simp] theorem State.issue_lm (s : State) (c : InstructionContext) : (s.issue c).lm = s.lm := rfl
@[simp] theorem State.issue_lw (s : State) (c : InstructionContext) : (s.issue c).lw = s.lw := rfl
@[simp] theorem State.issue_dmem (s : State) (c : InstructionContext) : (s.issue c).dmem = s.dmem := rfl
@[simp] theorem State.issue_params (s : State) (c : InstructionContext) : (s.issue c).params = s.params := rfl
@[simp] theorem State.issue_table (s : State) (c : InstructionContext) : (s.issue c).table = s.table := rfl

/-! ## `State.fetched` -/

@[simp] theorem State.fetched_x (s : State) (r : Record) : (s.fetched r).x = s.x := rfl
@[simp] theorem State.fetched_pend (s : State) (r : Record) : (s.fetched r).pend = s.pend := rfl
@[simp] theorem State.fetched_z (s : State) (r : Record) : (s.fetched r).z = s.z := rfl
@[simp] theorem State.fetched_pc (s : State) (r : Record) : (s.fetched r).pc = nextPc s.pc := rfl
@[simp] theorem State.fetched_clk (s : State) (r : Record) : (s.fetched r).clk = s.clk := rfl
@[simp] theorem State.fetched_retired (s : State) (r : Record) : (s.fetched r).retired = s.retired := rfl
@[simp] theorem State.fetched_status (s : State) (r : Record) : (s.fetched r).status = s.status := rfl
@[simp] theorem State.fetched_fault (s : State) (r : Record) : (s.fetched r).fault = s.fault := rfl
@[simp] theorem State.fetched_fen (s : State) (r : Record) : (s.fetched r).fen = (if r.op = .halt then false else s.fen) := rfl
@[simp] theorem State.fetched_redir (s : State) (r : Record) : (s.fetched r).redir = s.redir := rfl
@[simp] theorem State.fetched_lf (s : State) (r : Record) : (s.fetched r).lf = { last := some (fetchedContext s.pc r), stall := false } := rfl
@[simp] theorem State.fetched_ld (s : State) (r : Record) : (s.fetched r).ld = { content := some (fetchedContext s.pc r), stall := false } := rfl
@[simp] theorem State.fetched_lx (s : State) (r : Record) : (s.fetched r).lx = s.lx := rfl
@[simp] theorem State.fetched_lm (s : State) (r : Record) : (s.fetched r).lm = s.lm := rfl
@[simp] theorem State.fetched_lw (s : State) (r : Record) : (s.fetched r).lw = s.lw := rfl
@[simp] theorem State.fetched_dmem (s : State) (r : Record) : (s.fetched r).dmem = s.dmem := rfl
@[simp] theorem State.fetched_params (s : State) (r : Record) : (s.fetched r).params = s.params := rfl
@[simp] theorem State.fetched_table (s : State) (r : Record) : (s.fetched r).table = s.table := rfl

/-! ## `State.shutFetch` -/

@[simp] theorem State.shutFetch_x (s : State) : (s.shutFetch).x = s.x := rfl
@[simp] theorem State.shutFetch_pend (s : State) : (s.shutFetch).pend = s.pend := rfl
@[simp] theorem State.shutFetch_z (s : State) : (s.shutFetch).z = s.z := rfl
@[simp] theorem State.shutFetch_pc (s : State) : (s.shutFetch).pc = s.pc := rfl
@[simp] theorem State.shutFetch_clk (s : State) : (s.shutFetch).clk = s.clk := rfl
@[simp] theorem State.shutFetch_retired (s : State) : (s.shutFetch).retired = s.retired := rfl
@[simp] theorem State.shutFetch_status (s : State) : (s.shutFetch).status = s.status := rfl
@[simp] theorem State.shutFetch_fault (s : State) : (s.shutFetch).fault = s.fault := rfl
@[simp] theorem State.shutFetch_fen (s : State) : (s.shutFetch).fen = false := rfl
@[simp] theorem State.shutFetch_redir (s : State) : (s.shutFetch).redir = s.redir := rfl
@[simp] theorem State.shutFetch_lf (s : State) : (s.shutFetch).lf = s.lf := rfl
@[simp] theorem State.shutFetch_ld (s : State) : (s.shutFetch).ld = s.ld := rfl
@[simp] theorem State.shutFetch_lx (s : State) : (s.shutFetch).lx = s.lx := rfl
@[simp] theorem State.shutFetch_lm (s : State) : (s.shutFetch).lm = s.lm := rfl
@[simp] theorem State.shutFetch_lw (s : State) : (s.shutFetch).lw = s.lw := rfl
@[simp] theorem State.shutFetch_dmem (s : State) : (s.shutFetch).dmem = s.dmem := rfl
@[simp] theorem State.shutFetch_params (s : State) : (s.shutFetch).params = s.params := rfl
@[simp] theorem State.shutFetch_table (s : State) : (s.shutFetch).table = s.table := rfl

/-! ## `State.endTick` -/

@[simp] theorem State.endTick_x (s : State) : (s.endTick).x = s.x := rfl
@[simp] theorem State.endTick_pend (s : State) : (s.endTick).pend = s.pend := rfl
@[simp] theorem State.endTick_z (s : State) : (s.endTick).z = s.z := rfl
@[simp] theorem State.endTick_pc (s : State) : (s.endTick).pc = s.pc := rfl
@[simp] theorem State.endTick_clk (s : State) : (s.endTick).clk = s.clk + 1#64 := rfl
@[simp] theorem State.endTick_retired (s : State) : (s.endTick).retired = s.retired := rfl
@[simp] theorem State.endTick_status (s : State) : (s.endTick).status = s.status := rfl
@[simp] theorem State.endTick_fault (s : State) : (s.endTick).fault = s.fault := rfl
@[simp] theorem State.endTick_fen (s : State) : (s.endTick).fen = s.fen := rfl
@[simp] theorem State.endTick_redir (s : State) : (s.endTick).redir = false := rfl
@[simp] theorem State.endTick_lf (s : State) : (s.endTick).lf = s.lf := rfl
@[simp] theorem State.endTick_ld (s : State) : (s.endTick).ld = s.ld := rfl
@[simp] theorem State.endTick_lx (s : State) : (s.endTick).lx = s.lx := rfl
@[simp] theorem State.endTick_lm (s : State) : (s.endTick).lm = s.lm := rfl
@[simp] theorem State.endTick_lw (s : State) : (s.endTick).lw = s.lw := rfl
@[simp] theorem State.endTick_dmem (s : State) : (s.endTick).dmem = s.dmem := rfl
@[simp] theorem State.endTick_params (s : State) : (s.endTick).params = s.params := rfl
@[simp] theorem State.endTick_table (s : State) : (s.endTick).table = s.table := rfl

end Sys2Proof.Machine
end

