-- ==== Sys2Proof/Laws/Registers.lean ====
section
/-! SUPPORT. Register file and scoreboard: a read after a write. -/

namespace Sys2Proof.Machine

theorem State.reg_writeReg (s : State) (r q : Reg) (v : Word) :
    (s.writeReg r v).reg q = if r = q then v else s.reg q := by
  simp only [State.reg, State.writeReg, Vector.getElem_set, BitVec.toNat_inj]

theorem State.pending_setPending (s : State) (r q : Reg) (b : Bool) :
    (s.setPending r b).pending q = if r = q then b else s.pending q := by
  simp only [State.pending, State.setPending, Vector.getElem_set, BitVec.toNat_inj]

@[simp] theorem State.pending_writeReg (s : State) (r q : Reg) (v : Word) :
    (s.writeReg r v).pending q = s.pending q := rfl

@[simp] theorem State.reg_setPending (s : State) (r q : Reg) (b : Bool) :
    (s.setPending r b).reg q = s.reg q := rfl

@[simp] theorem State.reg_setStalls (s : State) (b : Bool) (q : Reg) : (s.setStalls b).reg q = s.reg q := rfl

@[simp] theorem State.pending_setStalls (s : State) (b : Bool) (q : Reg) :
    (s.setStalls b).pending q = s.pending q := rfl

/-- Two scoreboards with the same bits are equal. -/
theorem State.pend_ext {s t : State} (h : ∀ r : Reg, s.pending r = t.pending r) : s.pend = t.pend := by
  apply Vector.ext
  intro i hi
  have := h (BitVec.ofNat 4 i)
  simpa [State.pending, BitVec.toNat_ofNat, Nat.mod_eq_of_lt hi] using this

/-- Two register files with the same values are equal. -/
theorem State.x_ext {s t : State} (h : ∀ r : Reg, s.reg r = t.reg r) : s.x = t.x := by
  apply Vector.ext
  intro i hi
  have := h (BitVec.ofNat 4 i)
  simpa [State.reg, BitVec.toNat_ofNat, Nat.mod_eq_of_lt hi] using this

end Sys2Proof.Machine
end

