-- ==== Sys2Proof/Laws/Phases.lean ====
section
/-! SUPPORT. Inversion lemmas: what each shared operation and each phase can do, said once. -/

namespace Sys2Proof.Machine

/-- A sequence answers a next state exactly when both parts do. -/
theorem andThen_eq_next {o : Answer} {f : State → Answer} {t : State} :
    andThen o f = .next t ↔ ∃ s, o = .next s ∧ f s = .next t := by
  cases o <;> simp [andThen]

@[simp] theorem andThen_next (s : State) (f : State → Answer) : andThen (.next s) f = f s := rfl

/-- The Execute phase of one instruction answers a next state always: it does nothing, enters `Faulted`, or finishes
(R90, R91). -/
theorem State.execute_cases (s : State) (unit : InstructionContext → ExecuteAnswer) :
    (s.lx.content = none ∧ s.execute unit = .next s) ∨
    (∃ c k, s.lx.content = some c ∧ unit c = .fault k ∧ s.execute unit = .next (s.enterFault k c)) ∨
    (∃ c e, s.lx.content = some c ∧ unit c = .ok e ∧ s.execute unit = .next (s.finishExecute c e)) := by
  cases hx : s.lx.content with
  | none => exact .inl ⟨rfl, by simp [State.execute, hx]⟩
  | some c =>
    cases hu : unit c with
    | fault k => exact .inr (.inl ⟨c, k, rfl, hu, by simp [State.execute, hx, hu]⟩)
    | ok e => exact .inr (.inr ⟨c, e, rfl, hu, by simp [State.execute, hx, hu]⟩)

/-- The Writeback phase: nothing, or the commits of the instruction in `LW` (R83). -/
theorem wbPhase_cases {s t : State} (h : wbPhase s = .next t) :
    (s.lw.content = none ∧ t = s) ∨
    (∃ c u, s.lw.content = some c ∧ ((s.commitRegister c).countRetired).commitStore c = .next u ∧
      t = (u.signalHalt c).emptyWriteback) := by
  unfold wbPhase at h
  cases hw : s.lw.content with
  | none => exact .inl ⟨rfl, by simpa [hw] using h.symm⟩
  | some c =>
    simp only [hw, andThen_eq_next] at h
    obtain ⟨u, hu, ht⟩ := h
    exact .inr ⟨c, u, rfl, hu, by simpa using ht.symm⟩

/-- The store commit: nothing for an instruction that is not store-class, one word for one that is (R87). -/
theorem State.commitStore_cases {s t : State} {c : InstructionContext} (h : s.commitStore c = .next t) :
    (storeClass c.instr = false ∧ t = s) ∨
    (storeClass c.instr = true ∧ s.hasWord c.addrField = true ∧ t = s.storeWord c.addrField c.resultField) := by
  unfold State.commitStore at h
  split at h
  · split at h
    · exact .inr ⟨‹_›, ‹_›, by simpa using h.symm⟩
    · cases h
  · exact .inl ⟨Bool.eq_false_iff.mpr ‹¬ _›, by simpa using h.symm⟩

/-- The Memory phase: nothing, a word loaded, or the instruction passed on (R88). -/
theorem memPhase_cases {s t : State} (h : memPhase s = .next t) :
    (s.lm.content = none ∧ t = s) ∨
    (∃ c, s.lm.content = some c ∧ loadClass c.instr = true ∧ s.hasWord c.addrField = true ∧
      t = s.toWriteback { c with result := some (s.word c.addrField) }) ∨
    (∃ c, s.lm.content = some c ∧ loadClass c.instr = false ∧ t = s.toWriteback c) := by
  unfold memPhase at h
  cases hm : s.lm.content with
  | none => exact .inl ⟨rfl, by simpa [hm] using h.symm⟩
  | some c =>
    simp only [hm] at h
    split at h
    · split at h
      · exact .inr (.inl ⟨c, rfl, ‹_›, ‹_›, by simpa using h.symm⟩)
      · cases h
    · exact .inr (.inr ⟨c, rfl, Bool.eq_false_iff.mpr ‹¬ _›, by simpa using h.symm⟩)

/-- The Decode phase: nothing, a stall, or an issue (R93, R95, R98). -/
theorem decodePhase_cases (s : State) :
    (s.ld.content = none ∧ decodePhase s = s) ∨
    (∃ c, s.ld.content = some c ∧ s.hazard c.instr = true ∧ decodePhase s = s.setStalls true) ∨
    (∃ c, s.ld.content = some c ∧ s.hazard c.instr = false ∧
      decodePhase s = (s.markDestination c.instr).issue (s.readOperands c)) := by
  unfold decodePhase
  cases hd : s.ld.content with
  | none => exact .inl ⟨rfl, rfl⟩
  | some c =>
    by_cases hh : s.hazard c.instr = true
    · exact .inr (.inl ⟨c, rfl, hh, by simp [hh]⟩)
    · exact .inr (.inr ⟨c, rfl, by simpa using hh, by simp [hh]⟩)

/-- The Fetch phase: nothing, fetch shut for want of a record, or a record fetched (R101). -/
theorem fetchPhase_cases {s t : State} (h : fetchPhase s = .next t) :
    ((s.redir = true ∨ s.fen = false ∨ s.ld.content.isSome = true) ∧ t = s) ∨
    (s.redir = false ∧ s.fen = true ∧ s.ld.content = none ∧ s.recordAt s.pc = none ∧ t = s.shutFetch) ∨
    (∃ w r, s.redir = false ∧ s.fen = true ∧ s.ld.content = none ∧ s.recordAt s.pc = some w ∧
      decodeRecord w = .ok r ∧ t = s.fetched r) := by
  unfold fetchPhase at h
  by_cases hr : s.redir = true
  · exact .inl ⟨.inl hr, by simpa [hr] using h.symm⟩
  · by_cases hf : s.fen = true
    · cases hd : s.ld.content with
      | some c => exact .inl ⟨.inr (.inr rfl), by simpa [hr, hf, hd] using h.symm⟩
      | none =>
        simp only [hr, hf, hd, State.fetchRecord] at h
        cases hw : s.recordAt s.pc with
        | none => exact .inr (.inl ⟨by simpa using hr, hf, rfl, rfl, by simpa [hw] using h.symm⟩)
        | some w =>
          cases hdec : decodeRecord w with
          | error e => simp [hw, hdec] at h
          | ok r => exact .inr (.inr ⟨w, r, by simpa using hr, hf, rfl, rfl, hdec, by simpa [hw, hdec] using h.symm⟩)
    · exact .inl ⟨.inr (.inl (by simpa using hf)), by simpa [hr, hf] using h.symm⟩

/-- One step: nothing outside `Running`; else the five phases, cut off after Execute when it entered `Faulted`
(R80, R82, R91, R106). -/
theorem step_cases {s t : State} (h : step s = .next t) :
    (s.status ≠ .running ∧ t = s) ∨
    (∃ u v w, s.status = .running ∧ wbPhase s = .next u ∧ memPhase u = .next v ∧ exPhase v = .next w ∧
      ((w.status = .faulted ∧ t = w) ∨
       (w.status ≠ .faulted ∧ ∃ f, fetchPhase (decodePhase w) = .next f ∧ t = f.endTick))) := by
  unfold step tick at h
  by_cases hs : s.status = .running
  · rw [if_pos hs] at h
    simp only [andThen_eq_next] at h
    obtain ⟨w, ⟨v, ⟨u, hu, hv⟩, hw⟩, ht⟩ := h
    refine .inr ⟨u, v, w, hs, hu, hv, hw, ?_⟩
    unfold afterExecute at ht
    by_cases hf : w.status = .faulted
    · exact .inl ⟨hf, by simpa [hf] using ht.symm⟩
    · rw [if_neg hf, andThen_eq_next] at ht
      obtain ⟨f, hff, hft⟩ := ht
      exact .inr ⟨hf, f, hff, by simpa using hft.symm⟩
  · exact .inl ⟨hs, by simpa [hs] using h.symm⟩

end Sys2Proof.Machine
end

