-- ==== Sys2Proof/Laws/Execute.lean ====
section
/-! SUPPORT. Every instruction's meaning is `State.execute` of its unit, the fields each phase leaves alone, and which
instructions raise a fault, said once. -/

namespace Sys2Proof.Machine

/-- The meaning of every instruction runs its unit of the Execute stage (R90, R110). -/
theorem exec_eq_execute (i : Instr) (s : State) :
    exec i s = s.execute fun c => executeAnswer s.params.dmemWords s.z i c := by
  cases i <;> rfl

/-- What the Execute phase can do in a state with an occupied `LX` (R90, R91). -/
theorem exec_cases {i : Instr} {s t : State} {c : InstructionContext} (hc : s.lx.content = some c)
    (h : exec i s = .next t) :
    (∃ k, executeAnswer s.params.dmemWords s.z i c = .fault k ∧ t = s.enterFault k c) ∨
    (∃ e, executeAnswer s.params.dmemWords s.z i c = .ok e ∧ t = s.finishExecute c e) := by
  rw [exec_eq_execute] at h
  rcases s.execute_cases (fun c => executeAnswer s.params.dmemWords s.z i c) with
    ⟨hn, _⟩ | ⟨d, k, hd, hu, he⟩ | ⟨d, e, hd, hu, he⟩
  · rw [hc] at hn; cases hn
  · rw [hc] at hd; cases hd; rw [he] at h; cases h; exact .inl ⟨k, hu, rfl⟩
  · rw [hc] at hd; cases hd; rw [he] at h; cases h; exact .inr ⟨e, hu, rfl⟩

/-- What the Execute phase can do: nothing but clear `REDIR`, enter `Faulted`, or finish (R90, R91). -/
theorem exPhase_cases {s t : State} (h : exPhase s = .next t) :
    (s.lx.content = none ∧ t = s.clearRedirect) ∨
    (∃ c k, s.lx.content = some c ∧ executeAnswer s.params.dmemWords s.z c.instr c = .fault k ∧
      t = s.clearRedirect.enterFault k c) ∨
    (∃ c e, s.lx.content = some c ∧ executeAnswer s.params.dmemWords s.z c.instr c = .ok e ∧
      t = s.clearRedirect.finishExecute c e) := by
  unfold exPhase at h
  cases hc : s.lx.content with
  | none => rw [hc] at h; cases h; exact .inl ⟨rfl, rfl⟩
  | some c =>
    rw [hc] at h
    rcases exec_cases (s := s.clearRedirect) hc h with ⟨k, hk, ht⟩ | ⟨e, he, ht⟩
    · exact .inr (.inl ⟨c, k, rfl, hk, ht⟩)
    · exact .inr (.inr ⟨c, e, rfl, he, ht⟩)

/-- The Execute phase answers a next state always. -/
theorem exPhase_next (s : State) : ∃ t, exPhase s = .next t := by
  unfold exPhase
  cases s.lx.content with
  | none => exact ⟨_, rfl⟩
  | some c =>
    simp only [exec_eq_execute]
    rcases s.clearRedirect.execute_cases
      (fun d => executeAnswer s.clearRedirect.params.dmemWords s.clearRedirect.z c.instr d) with
      ⟨_, h⟩ | ⟨d, k, _, _, h⟩ | ⟨d, e, _, _, h⟩ <;> exact ⟨_, h⟩

/-- An effective address in range, wrapped, names a word of data memory (R160, R193). -/
theorem addressInRange_bound {n : Nat} {base off : Word} (h : addressInRange n (effectiveAddress base off) = true)
    (hn : n ≤ Config.maxDmemWords) : (wrap32 (effectiveAddress base off)).toNat < n := by
  simp only [addressInRange, Bool.and_eq_true, decide_eq_true_eq] at h
  simp only [Config.maxDmemWords] at hn
  have : ((wrap32 (effectiveAddress base off)).toNat : Int) = effectiveAddress base off := by
    rw [wrap32, BitVec.toNat_ofInt]
    omega
  omega

/-- What the Execute stage leaves when it raises no fault: which fields its rule produces (R90, R160, R170). -/
theorem executeAnswer_ok {n : Nat} {z : Bool} {i : Instr} {c : InstructionContext} {e : Executed}
    (h : executeAnswer n z i c = .ok e) :
    (writesFlag i = false → e.newZ = none) ∧
    ((destination i).isSome = true → loadClass i = false → e.result.isSome = true) ∧
    (storeClass i = true → e.result.isSome = true) ∧
    (loadClass i = true ∨ storeClass i = true → n ≤ Config.maxDmemWords → ∃ a, e.addr = some a ∧ a.toNat < n) ∧
    (e.taken.isSome = true → destination i = none ∧ i ≠ .halt) := by
  cases i <;> simp only [executeAnswer, nopUnit, haltUnit, addUnit, subUnit, andUnit, orUnit, xorUnit, mulUnit,
    addlUnit, sublUnit, movcUnit, cmpUnit, bzUnit, bnzUnit, branchAnswer, arithmeticAnswer, divUnit, loadUnit, ldrUnit,
    storeUnit, strUnit, addressAnswer] at h
  all_goals first
    | (cases h; simp [writesFlag, destination, loadClass, storeClass])
    | (split at h
       · first
         | (cases h; done)
         | (cases h; simp [writesFlag, destination, loadClass, storeClass]; exact addressInRange_bound ‹_›)
       · cases h <;> simp [writesFlag, destination, loadClass, storeClass])

/-- What the taken-branch actions leave alone (R92). -/
@[simp] theorem State.updateBranch_x (s : State) (t : Option Word) : (s.updateBranch t).x = s.x := by cases t <;> rfl
@[simp] theorem State.updateBranch_pend (s : State) (t : Option Word) : (s.updateBranch t).pend = s.pend := by
  cases t <;> rfl
@[simp] theorem State.updateBranch_z (s : State) (t : Option Word) : (s.updateBranch t).z = s.z := by cases t <;> rfl
@[simp] theorem State.updateBranch_clk (s : State) (t : Option Word) : (s.updateBranch t).clk = s.clk := by
  cases t <;> rfl
@[simp] theorem State.updateBranch_retired (s : State) (t : Option Word) : (s.updateBranch t).retired = s.retired := by
  cases t <;> rfl
@[simp] theorem State.updateBranch_status (s : State) (t : Option Word) : (s.updateBranch t).status = s.status := by
  cases t <;> rfl
@[simp] theorem State.updateBranch_fault (s : State) (t : Option Word) : (s.updateBranch t).fault = s.fault := by
  cases t <;> rfl
@[simp] theorem State.updateBranch_lx (s : State) (t : Option Word) : (s.updateBranch t).lx = s.lx := by cases t <;> rfl
@[simp] theorem State.updateBranch_lm (s : State) (t : Option Word) : (s.updateBranch t).lm = s.lm := by cases t <;> rfl
@[simp] theorem State.updateBranch_lw (s : State) (t : Option Word) : (s.updateBranch t).lw = s.lw := by cases t <;> rfl
@[simp] theorem State.updateBranch_dmem (s : State) (t : Option Word) : (s.updateBranch t).dmem = s.dmem := by
  cases t <;> rfl
@[simp] theorem State.updateBranch_params (s : State) (t : Option Word) : (s.updateBranch t).params = s.params := by
  cases t <;> rfl
@[simp] theorem State.updateBranch_table (s : State) (t : Option Word) : (s.updateBranch t).table = s.table := by
  cases t <;> rfl

/-- `Z` is all that its update touches (R12). -/
theorem State.updateZ_eq (s : State) (b : Option Bool) : s.updateZ b = { s with z := b.getD s.z } := by cases b <;> rfl

/-- A completed Execute, field by field (R90, R92). -/
theorem State.finishExecute_eq (s : State) (c : InstructionContext) (e : Executed) :
    s.finishExecute c e = { s with
      z := e.newZ.getD s.z
      pc := e.taken.getD s.pc
      redir := e.taken.isSome || s.redir
      fen := e.taken.isSome || s.fen
      ld := if e.taken.isSome then Latch.empty else s.ld
      lf := if e.taken.isSome then { s.lf with stall := false } else s.lf
      lm := { s.lm with content := some { c with result := e.result <|> c.result, addr := e.addr <|> c.addr } }
      lx := { s.lx with content := none } } := by
  obtain ⟨r, a, z, k⟩ := e
  cases r <;> cases a <;> cases z <;> cases k <;> rfl

/-- The Writeback phase, field by field, when its store address exists (R83 to R89). -/
theorem wbPhase_fields {s t : State} (h : wbPhase s = .next t) :
    t.z = s.z ∧ t.pc = s.pc ∧ t.clk = s.clk ∧ t.fault = s.fault ∧ t.fen = s.fen ∧ t.redir = s.redir ∧
    t.lf.last = s.lf.last ∧ t.ld.content = s.ld.content ∧ t.lx = s.lx ∧ t.lm = s.lm ∧
    t.lw = { s.lw with content := none } ∧ t.params = s.params ∧ t.table = s.table := by
  rcases wbPhase_cases h with ⟨hw, rfl⟩ | ⟨c, u, hw, hu, rfl⟩
  · simp [← hw]
  · rcases State.commitStore_cases hu with ⟨_, rfl⟩ | ⟨_, _, rfl⟩ <;>
      simp only [State.signalHalt, State.commitRegister] <;> cases destination c.instr <;> dsimp <;>
      split <;> simp [State.countRetired, State.setHalted, State.storeWord, State.setStalls,
        State.setPending, State.writeReg]

/-- The Memory phase touches `LM` and `LW` only (R88). -/
theorem memPhase_fields {s t : State} (h : memPhase s = .next t) :
    t = { s with lm := t.lm, lw := t.lw } ∧ t.lm = { s.lm with content := none } ∧ t.lw.stall = s.lw.stall := by
  rcases memPhase_cases h with ⟨hm, rfl⟩ | ⟨c, _, _, _, rfl⟩ | ⟨c, _, _, rfl⟩
  · simp [← hm]
  · simp [State.toWriteback]
  · simp [State.toWriteback]

/-- The Decode phase touches the scoreboard, `LX`, `LD` and the stall flags only (R93 to R98). -/
theorem decodePhase_fields (s : State) :
    decodePhase s = { s with
      pend := (decodePhase s).pend, lx := (decodePhase s).lx, ld := (decodePhase s).ld,
      lf := { s.lf with stall := (decodePhase s).lf.stall } } := by
  rcases decodePhase_cases s with ⟨_, h⟩ | ⟨c, _, _, h⟩ | ⟨c, _, _, h⟩ <;> rw [h]
  · simp [State.setStalls]
  · unfold State.markDestination
    cases destination c.instr <;> simp [State.issue, State.setPending]

/-- The Fetch phase touches the pc, `FEN`, `LF` and `LD` only (R101 to R105). -/
theorem fetchPhase_fields {s t : State} (h : fetchPhase s = .next t) :
    t = { s with pc := t.pc, fen := t.fen, lf := t.lf, ld := t.ld } := by
  rcases fetchPhase_cases h with ⟨_, rfl⟩ | ⟨_, _, _, _, rfl⟩ | ⟨w, r, _, _, _, _, _, rfl⟩ <;>
    simp [State.shutFetch, State.fetched]

end Sys2Proof.Machine
end

