-- ==== Sys2Proof/Laws/Invariant.lean ====
section
/-! SUPPORT. Counting the writers in flight (R11), and what no phase changes about a held instruction. -/

namespace Sys2Proof.Machine

@[simp] theorem Latch.writes_none {l : Latch} (h : l.content = none) (r : Reg) : l.writes r = 0 := by
  simp [Latch.writes, h]

theorem Latch.writes_some {l : Latch} {c : InstructionContext} (h : l.content = some c) (r : Reg) :
    l.writes r = (destination c.instr == some r).toNat := by
  simp [Latch.writes, h]

/-- Two latches holding instructions of one record have the same destination. -/
theorem Latch.writes_of_record {l k : Latch} {c d : InstructionContext} (hl : l.content = some c)
    (hk : k.content = some d) (h : c.record = d.record) (r : Reg) : l.writes r = k.writes r := by
  rw [Latch.writes_some hl, Latch.writes_some hk, InstructionContext.instr, InstructionContext.instr, h]

/-- Reading the operands changes no instruction field (R20, R96). -/
@[simp] theorem State.readOperands_instr (s : State) (c : InstructionContext) : (s.readOperands c).instr = c.instr := rfl
@[simp] theorem State.readOperands_pc (s : State) (c : InstructionContext) : (s.readOperands c).pc = c.pc := rfl
@[simp] theorem State.readOperands_record (s : State) (c : InstructionContext) :
    (s.readOperands c).record = c.record := rfl

/-- A store-class instruction has no destination (R67). -/
theorem destination_of_storeClass {i : Instr} (h : storeClass i = true) : destination i = none := by
  cases i <;> simp_all [storeClass, destination]

/-- A load-class instruction has one (R67). -/
theorem destination_of_loadClass {i : Instr} (h : loadClass i = true) : (destination i).isSome = true := by
  cases i <;> simp_all [loadClass, destination]

/-- A record is a HALT exactly when its opcode is (R66, R104). -/
theorem Record.instr_eq_halt (r : Record) : r.instr = .halt ↔ r.op = .halt := by
  unfold Record.instr
  cases r.op <;> simp

end Sys2Proof.Machine
end

