-- ==== Sys2Proof/Laws/Memory.lean ====
section
/-! SUPPORT. Data memory: a read after a write, the canonical form kept by every memory operation, and equal reads make
equal canonical memories. -/

namespace Sys2Proof.Machine

theorem Memory.read_nil (a : Nat) : Memory.read [] a = 0#32 := rfl

theorem Memory.read_cons (b : Nat) (v : Word) (m : Memory) (a : Nat) :
    Memory.read ((b, v) :: m) a = if a = b then v else Memory.read m a := rfl

/-- Below the first index a canonical memory may list, every word is 0. -/
theorem Memory.read_below_of_wfFrom {m : Memory} {lo a : Nat} (h : Memory.wfFrom lo m = true) (ha : a < lo) :
    Memory.read m a = 0#32 := by
  induction m generalizing lo with
  | nil => rfl
  | cons e rest ih =>
    obtain ⟨b, v⟩ := e
    simp only [Memory.wfFrom, Bool.and_eq_true, decide_eq_true_eq] at h
    rw [Memory.read_cons, if_neg (by omega)]
    exact ih h.2 (by omega)

/-- What a write does to every word of a canonical memory: the written word reads the value, no other word changes
(R42). -/
theorem Memory.read_write {m : Memory} {lo : Nat} (h : Memory.wfFrom lo m = true) (a : Nat) (v : Word) (b : Nat) :
    Memory.read (Memory.write m a v) b = if b = a then v else Memory.read m b := by
  induction m generalizing lo with
  | nil =>
    by_cases hv : v = 0#32 <;> simp [Memory.write, Memory.read, hv]
  | cons e rest ih =>
    obtain ⟨k, w⟩ := e
    simp only [Memory.wfFrom, Bool.and_eq_true, decide_eq_true_eq] at h
    have tail := ih h.2
    have zero : ∀ j, j < k + 1 → Memory.read rest j = 0#32 := fun j hj => Memory.read_below_of_wfFrom h.2 hj
    simp only [Memory.write]
    by_cases hlt : a < k
    · by_cases hv : v = 0#32
      · by_cases hb : b = a
        · subst hb
          simp [hlt, hv, Memory.read_cons, Nat.ne_of_lt hlt, zero b (by omega)]
        · simp [hlt, hv, hb]
      · simp [hlt, hv, Memory.read_cons]
    · by_cases heq : a = k
      · subst heq
        by_cases hv : v = 0#32
        · by_cases hb : b = a
          · subst hb
            simp [hv, zero b (by omega)]
          · simp [hv, hb, Memory.read_cons]
        · by_cases hb : b = a <;> simp [hv, hb, Memory.read_cons]
      · by_cases hb : b = k
        · subst hb
          simp [hlt, heq, Memory.read_cons, Ne.symm heq]
        · simp [hlt, heq, hb, Memory.read_cons, tail]

theorem Memory.wfFrom_mono {m : Memory} {lo lo' : Nat} (h : Memory.wfFrom lo m = true) (hle : lo' ≤ lo) :
    Memory.wfFrom lo' m = true := by
  cases m with
  | nil => rfl
  | cons e rest =>
    obtain ⟨b, v⟩ := e
    simp only [Memory.wfFrom, Bool.and_eq_true, decide_eq_true_eq] at h ⊢
    exact ⟨⟨by omega, h.1.2⟩, h.2⟩

theorem Memory.wfFrom_write {m : Memory} {lo : Nat} (h : Memory.wfFrom lo m = true) {a : Nat} (ha : lo ≤ a)
    (v : Word) : Memory.wfFrom lo (Memory.write m a v) = true := by
  induction m generalizing lo with
  | nil =>
    by_cases hv : v = 0#32 <;> simp [Memory.write, Memory.wfFrom, hv, ha]
  | cons e rest ih =>
    obtain ⟨k, w⟩ := e
    have hc := h
    simp only [Memory.wfFrom, Bool.and_eq_true, decide_eq_true_eq] at h
    simp only [Memory.write]
    by_cases hv : v = 0#32
    · by_cases hlt : a < k
      · simpa [hlt, hv] using hc
      · by_cases heq : a = k
        · simpa [hlt, heq, hv] using Memory.wfFrom_mono h.2 (by omega : lo ≤ k + 1)
        · have hr := ih h.2 (by omega : k + 1 ≤ a)
          simp [hlt, heq, Memory.wfFrom, hr, h.1.1, h.1.2]
    · by_cases hlt : a < k
      · have hk : a + 1 ≤ k := hlt
        simp [hlt, hv, Memory.wfFrom, ha, hk, h.1.2, h.2]
      · by_cases heq : a = k
        · subst heq
          simp [hv, Memory.wfFrom, ha, h.2]
        · have hr := ih h.2 (by omega : k + 1 ≤ a)
          simp [hlt, heq, Memory.wfFrom, hr, h.1.1, h.1.2]

/-- A write keeps the canonical form. -/
theorem Memory.wf_write {m : Memory} (h : Memory.wf m = true) (a : Nat) (v : Word) :
    Memory.wf (Memory.write m a v) = true :=
  Memory.wfFrom_write h (Nat.zero_le a) v

theorem Memory.wfFrom_ofWordsFrom (a : Nat) (words : List Word) :
    Memory.wfFrom a (Memory.ofWordsFrom a words) = true := by
  induction words generalizing a with
  | nil => rfl
  | cons v rest ih =>
    by_cases hv : v = 0#32
    · simpa [Memory.ofWordsFrom, hv] using Memory.wfFrom_mono (ih (a + 1)) (by omega : a ≤ a + 1)
    · simp [Memory.ofWordsFrom, hv, Memory.wfFrom, ih]

/-- The initial memory made from a list of words is canonical. -/
theorem Memory.wf_ofWordsFrom (a : Nat) (words : List Word) : Memory.wf (Memory.ofWordsFrom a words) = true :=
  Memory.wfFrom_mono (Memory.wfFrom_ofWordsFrom a words) (Nat.zero_le a)

/-- The empty memory of `State.reset` is canonical. -/
theorem Memory.wf_reset : Memory.wf State.reset.dmem = true := rfl

theorem Memory.below_cons (n b : Nat) (v : Word) (m : Memory) :
    Memory.below n ((b, v) :: m) = (decide (b < n) && Memory.below n m) := rfl

/-- A write inside the data space stores nothing outside it. -/
theorem Memory.below_write {m : Memory} {n : Nat} (h : Memory.below n m = true) {a : Nat} (ha : a < n) (v : Word) :
    Memory.below n (Memory.write m a v) = true := by
  induction m with
  | nil => by_cases hv : v = 0#32 <;> simp [Memory.write, Memory.below, hv, ha]
  | cons e rest ih =>
    obtain ⟨k, w⟩ := e
    rw [Memory.below_cons, Bool.and_eq_true, decide_eq_true_eq] at h
    simp only [Memory.write]
    split_ifs <;> simp [Memory.below_cons, h.1, h.2, ha, ih h.2]

/-- Two canonical memories that read the same everywhere are the same list. -/
theorem Memory.eq_of_read_eq {m m' : Memory} {lo : Nat} (h : Memory.wfFrom lo m = true)
    (h' : Memory.wfFrom lo m' = true) (hr : ∀ a, Memory.read m a = Memory.read m' a) : m = m' := by
  induction m generalizing lo m' with
  | nil =>
    cases m' with
    | nil => rfl
    | cons e' rest' =>
      obtain ⟨b, v⟩ := e'
      simp only [Memory.wfFrom, Bool.and_eq_true, decide_eq_true_eq, bne_iff_ne, ne_eq] at h'
      exact absurd (by simpa [Memory.read_cons, Memory.read_nil] using (hr b).symm) h'.1.2
  | cons e rest ih =>
    obtain ⟨a, v⟩ := e
    simp only [Memory.wfFrom, Bool.and_eq_true, decide_eq_true_eq, bne_iff_ne, ne_eq] at h
    cases m' with
    | nil => exact absurd (by simpa [Memory.read_cons, Memory.read_nil] using hr a) h.1.2
    | cons e' rest' =>
      obtain ⟨b, w⟩ := e'
      simp only [Memory.wfFrom, Bool.and_eq_true, decide_eq_true_eq, bne_iff_ne, ne_eq] at h'
      have hab : a = b := by
        rcases Nat.lt_trichotomy a b with hlt | heq | hlt
        · have e := hr a
          rw [Memory.read_cons, if_pos rfl, Memory.read_cons, if_neg (Nat.ne_of_lt hlt),
            Memory.read_below_of_wfFrom h'.2 (by omega)] at e
          exact absurd e h.1.2
        · exact heq
        · have e := hr b
          rw [Memory.read_cons, if_neg (Nat.ne_of_lt hlt), Memory.read_cons, if_pos rfl,
            Memory.read_below_of_wfFrom h.2 (by omega)] at e
          exact absurd e.symm h'.1.2
      subst hab
      have hvw : v = w := by simpa [Memory.read_cons] using hr a
      subst hvw
      congr 1
      refine ih h.2 h'.2 fun c => ?_
      by_cases hc : c = a
      · rw [hc, Memory.read_below_of_wfFrom h.2 (by omega), Memory.read_below_of_wfFrom h'.2 (by omega)]
      · simpa [Memory.read_cons, hc] using hr c

/-- Storing a word into a state whose memory is canonical: the stored word reads the value, no other word changes. -/
theorem State.word_storeWord {s : State} (h : Memory.wf s.dmem = true) (a : Nat) (v : Word) (b : Nat) :
    (s.storeWord a v).word b = if b = a then v else s.word b :=
  Memory.read_write h a v b

end Sys2Proof.Machine
end

