-- ==== Sys2Proof/Laws/PerInstr.lean ====
section
/-! SUPPORT. One family of statements made per instruction: the encoder's record is canonical (30_encoding.md R65) and
is the record of that instruction (R62). -/

namespace Sys2Proof.Laws.CanonicalRecord

/-- The instruction's record has every unused field 0, and its used fields give the instruction back. -/
def Statement (i : Instr) : Prop := i.record.canonical = true ∧ i.record.instr = i

theorem nop : Statement .nop := ⟨rfl, rfl⟩
theorem add (rd rs1 rs2 : Reg) : Statement (.add rd rs1 rs2) := ⟨rfl, rfl⟩
theorem sub (rd rs1 rs2 : Reg) : Statement (.sub rd rs1 rs2) := ⟨rfl, rfl⟩
theorem and (rd rs1 rs2 : Reg) : Statement (.and rd rs1 rs2) := ⟨rfl, rfl⟩
theorem or (rd rs1 rs2 : Reg) : Statement (.or rd rs1 rs2) := ⟨rfl, rfl⟩
theorem xor (rd rs1 rs2 : Reg) : Statement (.xor rd rs1 rs2) := ⟨rfl, rfl⟩
theorem addl (rd rs1 : Reg) (imm : Word) : Statement (.addl rd rs1 imm) := ⟨rfl, rfl⟩
theorem subl (rd rs1 : Reg) (imm : Word) : Statement (.subl rd rs1 imm) := ⟨rfl, rfl⟩
theorem mul (rd rs1 rs2 : Reg) : Statement (.mul rd rs1 rs2) := ⟨rfl, rfl⟩
theorem cmp (rs1 rs2 : Reg) : Statement (.cmp rs1 rs2) := ⟨rfl, rfl⟩
theorem movc (rd : Reg) (imm : Word) : Statement (.movc rd imm) := ⟨rfl, rfl⟩
theorem div (rd rs1 rs2 : Reg) : Statement (.div rd rs1 rs2) := ⟨rfl, rfl⟩
theorem bz (imm : Word) : Statement (.bz imm) := ⟨rfl, rfl⟩
theorem bnz (imm : Word) : Statement (.bnz imm) := ⟨rfl, rfl⟩
theorem load (rd rs1 : Reg) (imm : Word) : Statement (.load rd rs1 imm) := ⟨rfl, rfl⟩
theorem store (rs1 rs2 : Reg) (imm : Word) : Statement (.store rs1 rs2 imm) := ⟨rfl, rfl⟩
theorem ldr (rd rs1 rs2 : Reg) : Statement (.ldr rd rs1 rs2) := ⟨rfl, rfl⟩
theorem str (rs1 rs2 rs3 : Reg) : Statement (.str rs1 rs2 rs3) := ⟨rfl, rfl⟩
theorem halt : Statement .halt := ⟨rfl, rfl⟩

end Sys2Proof.Laws.CanonicalRecord
end

