-- ==== Sys2Proof/Laws/Placement.lean ====
section
/-! SUPPORT. Placing one record: what the placement leaves alone, where the word stands, and how the pipeline's front is
filled. -/

namespace Sys2Proof.Machine

/-- The pc value of the first record is record number 0 (R46). -/
theorem recordIndex_base (a : Word) : recordIndex a a = some 0 := by simp [recordIndex]

/-- The placed word is the record at the pc (R46). -/
theorem State.recordAt_placeRecord (s : State) (w : RecordWord) : (s.placeRecord w).recordAt s.pc = some w := by
  unfold State.placeRecord
  split
  · rename_i v k hv hk
    simp only [State.recordAt, recordIn, hk] at hv ⊢
    obtain ⟨hlt, _⟩ := List.getElem?_eq_some_iff.1 hv
    simp [hlt]
  · simp [State.recordAt, recordIn, recordIndex_base]

/-- The placement writes the table and its base and nothing else. -/
theorem State.placeRecord_fields (s : State) (w : RecordWord) :
    s.placeRecord w = { s with params := (s.placeRecord w).params, table := (s.placeRecord w).table } := by
  unfold State.placeRecord
  split <;> rfl

/-- The state with the word at the pc, field by field: what was in flight is gone, the rest is as before. -/
theorem State.placeForFetch_fields (s : State) (w : RecordWord) :
    s.placeForFetch w = { s.drained with
      params := (s.placeForFetch w).params, table := (s.placeForFetch w).table, status := .running, fen := true } := by
  unfold State.placeForFetch
  rw [State.placeRecord_fields]

/-- The placed word is the record at the pc, and Fetch will look there. -/
theorem State.recordAt_placeForFetch (s : State) (w : RecordWord) : (s.placeForFetch w).recordAt s.pc = some w :=
  s.drained.recordAt_placeRecord w

/-- Nothing is pending in a drained machine, so nothing is a hazard (R94). -/
theorem State.hazard_placeForFetch (s : State) (w : RecordWord) (r : Record) (i : Instr) :
    ((s.placeForFetch w).fetched r).hazard i = false := by
  have h : ∀ o, ((s.placeForFetch w).fetched r).pendingOperand o = false := by
    intro o
    rw [State.placeForFetch_fields]
    cases o <;> simp [State.pendingOperand, State.pending, State.fetched, State.drained]
  simp [State.hazard, h]

/-- The front is filled: the record at the pc has been fetched and issued. -/
theorem State.fillFront_placeForFetch (s : State) {w : RecordWord} {r : Record} (h : decodeRecord w = .ok r) :
    (s.placeForFetch w).fillFront = (((s.placeForFetch w).fetched r).markDestination r.instr).issue
      (((s.placeForFetch w).fetched r).readOperands (fetchedContext s.pc r)) := by
  have hpc : (s.placeForFetch w).pc = s.pc := by rw [State.placeForFetch_fields]; rfl
  have hf : fetchPhase (s.placeForFetch w) = .next ((s.placeForFetch w).fetched r) := by
    have hr : (s.placeForFetch w).redir = false := by rw [State.placeForFetch_fields]; rfl
    have he : (s.placeForFetch w).fen = true := rfl
    have hd : (s.placeForFetch w).ld.content = none := by rw [State.placeForFetch_fields]; rfl
    simp [fetchPhase, hr, he, hd, State.fetchRecord, hpc, State.recordAt_placeForFetch, h]
  have hz := State.hazard_placeForFetch s w r r.instr
  simp only [State.fillFront, hf, decodePhase]
  have hc : ((s.placeForFetch w).fetched r).ld.content = some (fetchedContext s.pc r) := by
    rw [← hpc]; rfl
  rw [hc]
  have hi : (fetchedContext s.pc r).instr = r.instr := rfl
  simp [hi, hz]

end Sys2Proof.Machine
end

