-- ==== Sys2Proof/Tests/Slice0.lean ====
section
/-! SUPPORT. Tests of the model: the words and the results are those of 95_test_vectors.md; one ill-formed term for each
check of WellFormed.lean; at most two one-step tests per instruction; and one witness for the hypotheses of every
statement that has hypotheses. -/

namespace Sys2Proof.Tests

open Sys2Proof.Machine Sys2Proof.Statements

/-! ## Decoding: words written out from 95_test_vectors.md Part 4 and R61 -/

theorem test_decode_nop : decode 0x0000000000000000#64 = .ok .nop := by decide
theorem test_decode_add : decode 0x0131200000000000#64 = .ok (.add 3#4 1#4 2#4) := by decide
theorem test_decode_sub : decode 0x0232100000000000#64 = .ok (.sub 3#4 2#4 1#4) := by decide
theorem test_decode_and : decode 0x0331200000000000#64 = .ok (.and 3#4 1#4 2#4) := by decide
theorem test_decode_or : decode 0x0431200000000000#64 = .ok (.or 3#4 1#4 2#4) := by decide
theorem test_decode_xor : decode 0x0531200000000000#64 = .ok (.xor 3#4 1#4 2#4) := by decide
theorem test_decode_addl : decode 0x06210000FFFFFFF9#64 = .ok (.addl 2#4 1#4 (BitVec.ofInt 32 (-7))) := by decide
theorem test_decode_subl : decode 0x0711000000000001#64 = .ok (.subl 1#4 1#4 1#32) := by decide
theorem test_decode_mul : decode 0x0831200000000000#64 = .ok (.mul 3#4 1#4 2#4) := by decide
theorem test_decode_cmp : decode 0x0901200000000000#64 = .ok (.cmp 1#4 2#4) := by decide
theorem test_decode_movc : decode 0x0AF0000080000000#64 = .ok (.movc 15#4 (BitVec.ofInt 32 (-2147483648))) := by decide
theorem test_decode_div : decode 0x0B31200000000000#64 = .ok (.div 3#4 1#4 2#4) := by decide
theorem test_decode_bz : decode 0x0C00000000000008#64 = .ok (.bz 8#32) := by decide
theorem test_decode_bnz : decode 0x0D000000FFFFFFF8#64 = .ok (.bnz (BitVec.ofInt 32 (-8))) := by decide
theorem test_decode_load : decode 0x0E20000000000004#64 = .ok (.load 2#4 0#4 4#32) := by decide
theorem test_decode_store : decode 0x0F01000000000004#64 = .ok (.store 1#4 0#4 4#32) := by decide
theorem test_decode_ldr : decode 0x1041200000000000#64 = .ok (.ldr 4#4 1#4 2#4) := by decide
theorem test_decode_str : decode 0x1105120000000000#64 = .ok (.str 5#4 1#4 2#4) := by decide
theorem test_decode_halt : decode 0x1200000000000000#64 = .ok .halt := by decide

/-- The other direction on two words of Part 4. -/
theorem test_encode : encode (.add 15#4 15#4 15#4) = 0x01FFF00000000000#64 ∧
    encode (.str 15#4 14#4 13#4) = 0x110FED0000000000#64 := by decide

/-- Unused fields are ignored: an ADD with `rs3` and `imm` not 0 (R65). -/
theorem test_decode_ignores_unused : decode 0x01312F00DEADBEEF#64 = .ok (.add 3#4 1#4 2#4) := by decide

/-- Part 4, illegal records. -/
theorem test_decode_refuses :
    decode 0x1300000000000000#64 = .error (.reservedOpcode 0x13#8) ∧
    decode 0xFF00000000000000#64 = .error (.reservedOpcode 0xFF#8) ∧
    decode 0x0000000100000000#64 = .error (.reservedByte 0x01#8) := by decide

/-- The host's numbering is the record's own. -/
theorem test_decodeTableWord : decodeTableWord 64 0x0B31200000000000 = some (.div 3#4 1#4 2#4) ∧
    decodeTableWord 64 0x1300000000000000 = none := by decide

/-- R75: operands in the order the assembler writes them. -/
theorem test_operands : (Instr.store 1#4 0#4 4#32).operands =
    (.store, [.register 1#4, .register 0#4, .immediate 4#32]) := by decide

/-! ## WellFormed: an ill-formed term for each check -/

theorem test_wellFormed_opcode : opcodeLegal 0x1300000000000000#64 = false ∧
    opcodeLegal 0x1200000000000000#64 = true := by decide

theorem test_wellFormed_reservedByte : reservedByteZero 0x0000000100000000#64 = false := by decide

theorem test_wellFormed_word : legalWord 0x1300000000000000#64 = false ∧
    legalWord 0x0000000100000000#64 = false ∧ legalWord 0x1200000000000000#64 = true := by decide

/-- One unused field at a time that is not 0. -/
theorem test_wellFormed_canonical :
    Record.canonical ⟨.halt, 1, 0, 0, 0, 0⟩ = false ∧ Record.canonical ⟨.movc, 1, 1, 0, 0, 0⟩ = false ∧
    Record.canonical ⟨.addl, 1, 1, 1, 0, 0⟩ = false ∧ Record.canonical ⟨.add, 1, 1, 1, 1, 0⟩ = false ∧
    Record.canonical ⟨.str, 0, 1, 1, 1, 1⟩ = false ∧ Record.canonical ⟨.str, 0, 1, 1, 1, 0⟩ = true := by decide

theorem test_wellFormed_placement : placementLegal (-1) 1 = false ∧ placementLegal 2147483644 1 = false ∧
    placementLegal 2147483643 1 = true ∧ placementLegal 0 1 = true := by decide

theorem test_wellFormed_table : legalTable [] 4000 = false ∧ legalTable [0x1300000000000000#64] 4000 = false ∧
    legalTable [0#64] (-4) = false ∧ legalTable [0#64] 4000 = true := by decide

theorem test_wellFormed_dmemWords : dmemWordsLegal 0 = false ∧ dmemWordsLegal 2147483649 = false ∧
    dmemWordsLegal 2147483648 = true ∧ dmemWordsLegal 1 = true := by decide

/-- Indices not rising, an index twice, an entry 0. -/
theorem test_wellFormed_memory : Memory.wf [(5, 1#32), (4, 1#32)] = false ∧ Memory.wf [(4, 1#32), (4, 2#32)] = false ∧
    Memory.wf [(4, 0#32)] = false ∧ Memory.wf [(4, 1#32), (5, 1#32)] = true := by decide

theorem test_wellFormed_below : Memory.below 4096 [(4096, 1#32)] = false ∧
    Memory.below 4096 [(4095, 1#32)] = true := by decide

/-! ## Loading (R193) -/

/-- The refused tables and parameters of R193, one of each. -/
theorem test_initialize_refuses :
    initializeRun [] 4000 4096 none = .error .emptyTable ∧
    initializeRun [0x1300000000000000#64] 4000 4096 none = .error .illegalRecord ∧
    initializeRun [0#64] (-4) 4096 none = .error .placement ∧
    initializeRun [0#64] 4000 0 none = .error .dmemWords ∧
    initializeRun [0#64] 4000 2 (some [1#32]) = .error .dmemInitLength := by decide

/-! ## One step on a small state -/

/-- The next state of an answer, if there is one. -/
def next? (o : Answer) : Option State :=
  match o with
  | .next s => some s
  | .fault _ => none
  | .refused _ => none

theorem eq_next_of_next? {o : Answer} {s : State} (h : next? o = some s) : o = .next s := by
  cases o <;> simp_all [next?]

/-- The instruction in `LX` at pc 4004 with its operands, nothing else in flight, reset state otherwise. -/
def holding (i : Instr) (v1 v2 v3 : Int) (z : Bool) : State :=
  { State.initial Params.default [0#64, encode i] with
    z := z
    lx := { content := some { pc := 4004#32, record := i.record, v1 := some (wrap32 v1), v2 := some (wrap32 v2),
                              v3 := some (wrap32 v3) }, stall := false } }

/-- `result` in `LM` and `Z` after the Execute phase of `i`. -/
def resultOf (i : Instr) (v1 v2 : Int) : Option (Option Int × Bool) :=
  (next? (exec i (holding i v1 v2 0 false))).map fun s =>
    (s.lm.content.bind fun c => c.result.map BitVec.toInt, s.z)

/-- `Z` after, when nothing else of the registers' view changed and no result was produced. -/
def flagOf (i : Instr) (v1 v2 : Int) : Option (Bool × Bool) :=
  (next? (exec i (holding i v1 v2 0 false))).map fun s => (s.z, s.lm.content.all fun c => c.result.isNone)

/-- Status, fault kind, `FAULT.op`, and whether `LX` still holds the instruction. -/
def faultOf (i : Instr) (v1 v2 v3 : Int) : Option (Status × FaultRecord × Bool) :=
  (next? (exec i (holding i v1 v2 v3 true))).map fun s => (s.status, s.fault, s.lx.content.isSome)

/-- `addr` and `result` in `LM`. -/
def addressOf (i : Instr) (v1 v2 v3 : Int) : Option (Option Int × Option Int) :=
  (next? (exec i (holding i v1 v2 v3 true))).map fun s =>
    (s.lm.content.bind fun c => c.addr.map BitVec.toInt, s.lm.content.bind fun c => c.result.map BitVec.toInt)

/-- The pc, `REDIR`, and whether `LD` is empty, for a branch at 4004 with an instruction behind it in `LD`. -/
def branchOf (i : Instr) (z : Bool) : Option (Int × Bool × Bool) :=
  (next? (exec i { holding i 0 0 0 z with
      pc := 4012#32, ld := { content := some (fetchedContext 4008#32 Instr.nop.record), stall := false } })).map
    fun s => (s.pc.toInt, s.redir, s.ld.content.isNone)

-- Operand values and results: 95_test_vectors.md Part 2.

theorem test_add : resultOf (.add 3#4 1#4 2#4) 2147483647 2147483647 = some (some (-2), false) := by decide
theorem test_add_zero : resultOf (.add 3#4 1#4 2#4) (-2147483648) (-2147483648) = some (some 0, true) := by decide
theorem test_sub : resultOf (.sub 3#4 1#4 2#4) 5 10 = some (some (-5), false) := by decide
theorem test_sub_wraps : resultOf (.sub 3#4 1#4 2#4) 0 (-2147483648) = some (some (-2147483648), false) := by decide
theorem test_and : resultOf (.and 3#4 1#4 2#4) 12 10 = some (some 8, false) := by decide
theorem test_and_zero : resultOf (.and 3#4 1#4 2#4) 0x55555555 (-1431655766) = some (some 0, true) := by decide
theorem test_or : resultOf (.or 3#4 1#4 2#4) 12 10 = some (some 14, false) := by decide
theorem test_xor : resultOf (.xor 3#4 1#4 2#4) 12 10 = some (some 6, false) := by decide
theorem test_xor_zero : resultOf (.xor 3#4 1#4 2#4) 77 77 = some (some 0, true) := by decide
theorem test_addl : resultOf (.addl 2#4 1#4 (wrap32 (-7))) 7 99 = some (some 0, true) := by decide
theorem test_subl : resultOf (.subl 2#4 1#4 (wrap32 (-2147483648))) 5 99 = some (some (-2147483643), false) := by decide
theorem test_movc : resultOf (.movc 2#4 (wrap32 (-1))) 5 6 = some (some (-1), false) := by decide
theorem test_movc_zero : resultOf (.movc 2#4 0#32) 5 6 = some (some 0, true) := by decide
theorem test_mul : resultOf (.mul 3#4 1#4 2#4) 46341 46341 = some (some (-2147479015), false) := by decide
theorem test_mul_wraps : resultOf (.mul 3#4 1#4 2#4) 65536 65536 = some (some 0, true) := by decide
theorem test_div : resultOf (.div 3#4 1#4 2#4) (-7) 2 = some (some (-3), false) := by decide
theorem test_div_zero : faultOf (.div 3#4 1#4 2#4) 0 0 0 =
    some (.faulted, { kind := .arithmetic, pc := 4004#32, op := 0x0B#8 }, true) := by decide
theorem test_cmp : flagOf (.cmp 1#4 2#4) (-2147483648) (-2147483648) = some (true, true) := by decide
theorem test_cmp_unequal : flagOf (.cmp 1#4 2#4) 0 (-2147483648) = some (false, true) := by decide
theorem test_load : addressOf (.load 2#4 1#4 0#32) 4095 0 0 = some (some 4095, none) := by decide
theorem test_load_fault : faultOf (.load 2#4 0#4 4096#32) 0 0 0 =
    some (.faulted, { kind := .address, pc := 4004#32, op := 0x0E#8 }, true) := by decide
theorem test_ldr : addressOf (.ldr 3#4 1#4 2#4) 10 (-3) 0 = some (some 7, none) := by decide
theorem test_ldr_sum_not_wrapped : faultOf (.ldr 2#4 1#4 1#4) (-2147483648) (-2147483648) 0 =
    some (.faulted, { kind := .address, pc := 4004#32, op := 0x10#8 }, true) := by decide
theorem test_store : addressOf (.store 1#4 0#4 4#32) 20 0 0 = some (some 4, some 20) := by decide
theorem test_store_fault : faultOf (.store 1#4 1#4 0#32) 4096 4096 0 =
    some (.faulted, { kind := .address, pc := 4004#32, op := 0x0F#8 }, true) := by decide
theorem test_str : addressOf (.str 5#4 1#4 2#4) 77 100 2 = some (some 102, some 77) := by decide
theorem test_str_fault : faultOf (.str 5#4 1#4 2#4) 77 0 (-1) =
    some (.faulted, { kind := .address, pc := 4004#32, op := 0x11#8 }, true) := by decide
theorem test_bz_taken : branchOf (.bz 8#32) true = some (4012, true, true) := by decide
theorem test_bz_not_taken : branchOf (.bz 8#32) false = some (4012, false, false) := by decide
theorem test_bnz_taken : branchOf (.bnz (wrap32 (-4))) false = some (4000, true, true) := by decide
theorem test_bnz_not_taken : branchOf (.bnz 8#32) true = some (4012, false, false) := by decide
theorem test_nop : flagOf .nop 1 1 = some (false, true) := by decide

/-- HALT in `LW`: the tick ends the run and counts (R89, R106). -/
theorem test_halt : ((next? (step { State.initial Params.default [encode .halt] with
      fen := false, pc := 4004#32
      lw := { content := some (fetchedContext 4000#32 Instr.halt.record), stall := false } })).map fun s =>
    (s.status, s.retired, s.clk)) = some (.halted, 1#64, 1#64) := by decide

/-- The placed record runs at the very next step: from reset, the ADD of 0 and 0 leaves its result in `LM` and `Z` set
(R131, R90; notes/assumptions/4.md). -/
theorem test_withFetchWord : ((next? (step (State.reset.withFetchWord 64 0x0131200000000000))).map fun s =>
    (s.lm.content.map fun c => (c.instr, c.pc, c.result), s.z, s.clk)) =
    some (some (.add 3#4 1#4 2#4, 4000#32, some 0#32), true, 1#64) := by decide

/-- A word that is no legal record is refused by name where it would be fetched (U9). -/
theorem test_withFetchWord_illegal : (match step (State.reset.withFetchWord 64 0x1300000000000000) with
    | .refused (.illegalRecord w) => some w
    | _ => none) = some 0x1300000000000000#64 := by decide

/-! ## Witnesses: the hypotheses of the statements can be met -/

/-- One instruction of every kind, with the base register 0 in range where it addresses memory. -/
def everyInstr : List Instr :=
  [.nop, .add 3#4 1#4 2#4, .sub 3#4 1#4 2#4, .and 3#4 1#4 2#4, .or 3#4 1#4 2#4, .xor 3#4 1#4 2#4, .addl 3#4 1#4 7#32,
   .subl 3#4 1#4 7#32, .mul 3#4 1#4 2#4, .cmp 1#4 2#4, .movc 3#4 7#32, .div 3#4 1#4 2#4, .bz 8#32, .bnz 8#32,
   .load 3#4 1#4 4095#32, .store 1#4 2#4 0#32, .ldr 3#4 1#4 2#4, .str 1#4 2#4 4#4, .halt]

/-- Every instruction placed on the reset machine is executed by the very next step: it has moved on to `LM`, or, for
the DIV of 0 by 0, it has raised its fault. -/
theorem test_withFetchWord_every : ∀ i ∈ everyInstr, ((next? (step (State.reset.withFetchWord 64 (encode i).toNat))).map
    fun s => (s.lm.content.map InstructionContext.instr, s.status)) =
    some (if i = .div 3#4 1#4 2#4 then (none, .faulted) else (some i, .running)) := by decide

/-- The instruction alone at the pc of a reset machine, with given `x[1]`, `x[2]` and `Z`. -/
def aloneAtReset (i : Instr) (x1 x2 : Int) (z : Bool) : State :=
  { ((State.initial Params.default [encode i]).writeReg 1#4 (wrap32 x1)).writeReg 2#4 (wrap32 x2) with z := z }

/-- FetchedAlone, for an instruction of every kind: RegisterArithmeticRules, ImmediateArithmeticRules, CompareRule,
NopAndHaltRules, StepRunsTheDecodedInstruction (4). -/
theorem witness_fetchedAlone : ∀ i ∈ everyInstr,
    FetchedAlone (aloneAtReset i 6 2 false) i.record ∧ i.record.instr = i := by decide

/-- DivideRule: a divisor that is not 0, and the divisor 0. -/
theorem witness_divideRule :
    (FetchedAlone (aloneAtReset (.div 3#4 1#4 2#4) 6 2 false) (Instr.div 3#4 1#4 2#4).record ∧
      (aloneAtReset (.div 3#4 1#4 2#4) 6 2 false).reg 2#4 ≠ 0#32) ∧
    (FetchedAlone (aloneAtReset (.div 3#4 1#4 2#4) 6 0 false) (Instr.div 3#4 1#4 2#4).record ∧
      (aloneAtReset (.div 3#4 1#4 2#4) 6 0 false).reg 2#4 = 0#32) := by decide

/-- LoadRules and StoreRules: effective addresses 0 and `DMEM_WORDS - 1` in range, -1 and `DMEM_WORDS` outside. -/
theorem witness_addresses :
    (let s := aloneAtReset (.ldr 3#4 1#4 2#4) 1 (-1) false
     FetchedAlone s (Instr.ldr 3#4 1#4 2#4).record ∧ 0 ≤ (s.reg 1#4).toInt + (s.reg 2#4).toInt ∧
       (s.reg 1#4).toInt + (s.reg 2#4).toInt < s.params.dmemWords) ∧
    (let s := aloneAtReset (.load 3#4 1#4 0#32) 4096 0 false
     FetchedAlone s (Instr.load 3#4 1#4 0#32).record ∧ (s.params.dmemWords : Int) ≤ (s.reg 1#4).toInt + 0) ∧
    (let s := aloneAtReset (.store 1#4 2#4 4095#32) 5 0 false
     FetchedAlone s (Instr.store 1#4 2#4 4095#32).record ∧ 0 ≤ (s.reg 2#4).toInt + 4095 ∧
       (s.reg 2#4).toInt + 4095 < s.params.dmemWords ∧ Memory.wf s.dmem = true) ∧
    (let s := aloneAtReset (.str 1#4 2#4 4#4) 5 (-1) false
     FetchedAlone s (Instr.str 1#4 2#4 4#4).record ∧ (s.reg 2#4).toInt + (s.reg 4#4).toInt < 0) := by decide

/-- BranchRules: each branch taken and not taken. -/
theorem witness_branchRules :
    (FetchedAlone (aloneAtReset (.bz 8#32) 0 0 true) (Instr.bz 8#32).record ∧
      FetchedAlone (aloneAtReset (.bz 8#32) 0 0 false) (Instr.bz 8#32).record) ∧
    (FetchedAlone (aloneAtReset (.bnz 8#32) 0 0 true) (Instr.bnz 8#32).record ∧
      FetchedAlone (aloneAtReset (.bnz 8#32) 0 0 false) (Instr.bnz 8#32).record) := by decide

/-- An occupied `LX`: RegisterArithmeticExecutes, ImmediateArithmeticExecutes, CompareExecutes, NopAndHaltExecute, and
BranchesExecute for either `Z`. -/
theorem witness_occupied : ∀ i ∈ everyInstr, ∀ z : Bool, ∃ c, (holding i 6 2 0 z).lx.content = some c ∧
    (holding i 6 2 0 z).z = z := by
  intro i _ z
  exact ⟨_, rfl, rfl⟩

/-- DivideExecutes: both divisors. -/
theorem witness_divideExecutes : ∃ c d,
    (holding (.div 3#4 1#4 2#4) 6 2 0 false).lx.content = some c ∧ c.operand2 ≠ 0#32 ∧
    (holding (.div 3#4 1#4 2#4) 6 0 0 false).lx.content = some d ∧ d.operand2 = 0#32 :=
  ⟨_, _, rfl, by decide, rfl, by decide⟩

/-- LoadsExecute, StoresExecute, OutOfRangeAddressEntersFaulted: the four boundary addresses. -/
theorem witness_addressExecutes : ∀ p ∈ [((0 : Int), true), (4095, true), (4096, false), (-1, false)],
    ∃ c, (holding (.load 3#4 1#4 0#32) p.1 0 0 false).lx.content = some c ∧
      (p.2 = true → 0 ≤ c.operand1.toInt + (0#32).toInt ∧ c.operand1.toInt + (0#32).toInt < 4096) ∧
      (p.2 = false → c.operand1.toInt + (0#32).toInt < 0 ∨ 4096 ≤ c.operand1.toInt + (0#32).toInt) := by
  intro p hp
  refine ⟨_, rfl, ?_⟩
  revert p
  decide

/-- EmptyExecuteLatchDoesNothing. -/
theorem witness_emptyExecute : State.reset.lx.content = none := rfl

/-- EncodeOfDecodedWordIsTheWord: a canonical word, and one that is not. -/
theorem witness_decodedWord :
    (∃ r, decodeRecord 0x0131200000000000#64 = .ok r ∧ r.canonical = true) ∧
    (∃ r, decodeRecord 0x01312F00DEADBEEF#64 = .ok r ∧ r.canonical = false) :=
  ⟨⟨⟨.add, 3, 1, 2, 0, 0⟩, by decide⟩, ⟨⟨.add, 3, 1, 2, 15, 0xDEADBEEF⟩, by decide⟩⟩

/-- PlacedRecordRunsAtTheNextStep: a table word that is a record. -/
theorem witness_placedRecord : ∃ r, decodeRecord (tableWord 64 0x0131200000000000) = .ok r :=
  ⟨⟨.add, 3, 1, 2, 0, 0⟩, by decide⟩

/-- DecoderAcceptsExactlyLegalWords: the last legal opcode, the first reserved one, a reserved byte. -/
theorem witness_decoder :
    ((0x1200000000000000#64).extractLsb' 56 8).toNat ≤ 0x12 ∧ 0x12 < ((0x1300000000000000#64).extractLsb' 56 8).toNat ∧
    ((0x0000000100000000#64).extractLsb' 56 8).toNat ≤ 0x12 ∧ (0x0000000100000000#64).extractLsb' 32 8 ≠ 0#8 := by
  decide

/-- UnusedRecordFieldsAreIgnored: two records that differ. -/
theorem witness_unusedFields : (⟨.movc, 1, 2, 3, 4, 5⟩ : Record) ≠ ⟨.movc, 1, 0, 0, 0, 5⟩ ∧
    (Record.instr ⟨.movc, 1, 2, 3, 4, 5⟩ = .movc 1 5) := by decide

/-- WrapIsTheUniqueCongruentValue: `n = 2^31` and `m = -2^31`. -/
theorem witness_wrap : (-2147483648 : Int) % 4294967296 = 2147483648 % 4294967296 ∧
    (wrap32 2147483648).toInt = -2147483648 := by decide

/-- A program of the tests: `MOVC R1,#5; ADD R2,R1,R1; HALT` (95_test_vectors.md S2, shortened). -/
def addProgram : List RecordWord := [0x0A10000000000005#64, 0x0121100000000000#64, 0x1200000000000000#64]

/-- Its state after `initialize`. -/
def addStart : State := State.initial Params.default addProgram

/-- `initialize` succeeds: InitializeEstablishesInvariant, ResetLeavesTheseValues without and with `DMEM_INIT`. -/
theorem witness_initialize : initializeRun addProgram 4000 4096 none = .ok addStart := by decide

theorem witness_initialize_words : ∃ s, initializeRun addProgram 0 2 (some [7#32, 0#32]) = .ok s ∧ s.word 0 = 7#32 :=
  ⟨_, rfl, by decide⟩

/-- ResetLeavesTheseValues: a reset edge that succeeds, from a machine that has run. -/
theorem witness_resetEdge : ∃ t, resetEdge 8000#32 { addStart with z := true, clk := 9#64 } = .ok t ∧
    t.pc = 8000#32 := ⟨_, rfl, rfl⟩

/-- A state that satisfies the invariant: EveryStepKeepsInvariant, InvariantStatesNeverStop, ClockedEdgeEqualsTick. -/
theorem witness_inv : addStart.Inv := by
  constructor <;> decide

/-- The state after `k` ticks, where there is one. -/
def after (k : Nat) (s : State) : State :=
  match Sys2Proof.core.run k s with
  | .next t => t
  | .fault _ => s
  | .refused _ => s

/-- EveryStepKeepsInvariant: a step from it. -/
theorem witness_step : step addStart = .next (after 1 addStart) := rfl

/-- DecodeNeverStallsThreeTicksRunning: three steps, the third and the fourth of the program stall the ADD. -/
theorem witness_stalls : addStart.status = .running ∧
    step addStart = .next (after 1 addStart) ∧ step (after 1 addStart) = .next (after 2 addStart) ∧
    step (after 2 addStart) = .next (after 3 addStart) ∧
    (after 3 addStart).ld.stall = true ∧ (after 4 addStart).ld.stall = true ∧ (after 5 addStart).ld.stall = false :=
  ⟨rfl, rfl, rfl, rfl, by decide, by decide, by decide⟩

/-- A running machine with the given latches, nothing else changed from `addStart`. -/
def busy (lw lm lx : Option Instr) : State :=
  let held : Option Instr → Latch := fun i =>
    { content := i.map fun i => { pc := 4000#32, record := i.record, v1 := some 6#32, v2 := some 2#32, v3 := some 2#32,
                                  result := some 7#32, addr := some 4#32 }, stall := false }
  { addStart with lw := held lw, lm := held lm, lx := held lx, pc := 4004#32 }

/-- A step of a running machine: ClockCountsCompletedTicks, RetiredCountsEachWriteback, InstructionsAdvanceOneStagePerTick,
TickChangesOnlyWhatItsInstructionsWrite, StatusChangesOnlyByFaultOrHalt, with every latch occupied and with none. -/
theorem witness_runningStep :
    (∃ t, step (busy (some (.add 3#4 1#4 2#4)) (some (.load 5#4 1#4 0#32)) (some (.sub 6#4 1#4 2#4))) = .next t ∧
      t.status = .running ∧ t.reg 3#4 = 7#32) ∧
    (∃ t, step (busy none none none) = .next t ∧ t.status = .running) :=
  ⟨⟨_, rfl, rfl, by decide⟩, ⟨_, rfl, rfl⟩⟩

/-- The same, for a tick that faults and for a tick that halts. -/
theorem witness_statusChanges :
    (∃ t, step (busy none none (some (.load 5#4 1#4 4096#32))) = .next t ∧ t.status = .faulted) ∧
    (∃ t, step (busy (some .halt) none none) = .next t ∧ t.status = .halted) :=
  ⟨⟨_, rfl, by decide⟩, ⟨_, rfl, by decide⟩⟩

/-- StepRunsTheDecodedInstruction (1), FaultStopsTheTick: the phases before Execute answer, `LX` is occupied; the
fault of a zero divisor, and of the effective address `DMEM_WORDS`. -/
theorem witness_beforeExecute :
    (∃ u v c, wbPhase (busy (some (.store 1#4 2#4 0#32)) (some .nop) (some (.div 5#4 1#4 2#4))) = .next u ∧
      memPhase u = .next v ∧ v.lx.content = some c) ∧
    (∃ u v c, wbPhase (holding (.div 5#4 1#4 2#4) 6 0 0 false) = .next u ∧ memPhase u = .next v ∧
      v.lx.content = some c ∧ RaisesFault v.params.dmemWords c .arithmetic) ∧
    (∃ u v c, wbPhase (holding (.load 5#4 1#4 0#32) 4096 0 0 false) = .next u ∧ memPhase u = .next v ∧
      v.lx.content = some c ∧ RaisesFault v.params.dmemWords c .address) :=
  ⟨⟨_, _, _, rfl, rfl, rfl⟩,
   ⟨_, _, _, rfl, rfl, rfl, .inl ⟨rfl, ⟨5#4, 1#4, 2#4, rfl⟩, rfl⟩⟩,
   ⟨_, _, _, rfl, rfl, rfl, .inr ⟨rfl, 4096, .inr (by decide), .inl ⟨5#4, 1#4, 0#32, rfl, rfl⟩⟩⟩⟩

/-- StepRunsTheDecodedInstruction (2), (3): a faulted state, and one whose Fetch answers. -/
theorem witness_afterExecute : { addStart with status := Status.faulted }.status = .faulted ∧
    ∃ f, fetchPhase (decodePhase addStart) = .next f := ⟨rfl, _, rfl⟩

/-- StoppedMachineChangesNothing: both stopped statuses, and a reset edge that leaves one. -/
theorem witness_stopped : { addStart with status := Status.halted }.status ≠ .running ∧
    { addStart with status := Status.faulted }.status ≠ .running ∧
    ∃ t, clockEdge true 4000#32 { addStart with status := .halted } = .ok (.next t) ∧ t.status ≠ .halted :=
  ⟨by decide, by decide, _, rfl, by decide⟩

/-- WritebackCommitsOneInstruction: nothing in `LW`; a register writer, a store at the last word, a HALT, each in `LW`. -/
theorem witness_emptyWriteback : State.reset.lw.content = none := rfl

theorem witness_writeback : ∀ i ∈ [Instr.movc 3#4 7#32, Instr.store 1#4 2#4 0#32, Instr.halt],
    ∃ c, (busy (some i) none none).lw.content = some c ∧
      (storeClass c.instr = true → c.addrField < (busy (some i) none none).params.dmemWords) ∧
      Memory.wf (busy (some i) none none).dmem = true := by
  intro i hi
  refine ⟨_, rfl, ?_⟩
  revert i
  decide

/-- MemoryPhaseLoadsOrPassesOn: empty, a load with a checked address, and another instruction in `LM`. -/
theorem witness_memory : (busy none none none).lm.content = none ∧
    (∃ c, (busy none (some (.load 5#4 1#4 0#32)) none).lm.content = some c ∧ loadClass c.instr = true ∧
      c.addrField < (busy none none none).params.dmemWords) ∧
    (∃ c, (busy none (some (.str 5#4 1#4 2#4)) none).lm.content = some c ∧ loadClass c.instr = false) :=
  ⟨rfl, ⟨_, rfl, rfl, by decide⟩, ⟨_, rfl, rfl⟩⟩

/-- HazardIsAPendingOperand: a destination pending is a hazard, an unrelated register is not. -/
theorem witness_hazard : (addStart.setPending 3#4 true).hazard (.movc 3#4 7#32) = true ∧
    (addStart.setPending 4#4 true).hazard (.movc 3#4 7#32) = false ∧
    (addStart.setPending 3#4 true).hazard (.store 1#4 3#4 0#32) = true := by decide

/-- A machine with one instruction in `LD` and register 3 pending or not. -/
def decoding (i : Instr) (pending : Bool) : State :=
  { addStart.setPending 3#4 pending with
    ld := { content := some (fetchedContext 4000#32 i.record), stall := false }, pc := 4004#32 }

/-- DecodeStallsOrIssues: `LD` empty, a hazard, no hazard with and without a destination. -/
theorem witness_decode : addStart.ld.content = none ∧
    (∃ c, (decoding (.movc 3#4 7#32) true).ld.content = some c ∧
      (decoding (.movc 3#4 7#32) true).hazard c.instr = true) ∧
    (∃ c, (decoding (.movc 3#4 7#32) false).ld.content = some c ∧
      (decoding (.movc 3#4 7#32) false).hazard c.instr = false ∧ destination c.instr = some 3#4) ∧
    (∃ c, (decoding (.cmp 3#4 3#4) false).ld.content = some c ∧
      (decoding (.cmp 3#4 3#4) false).hazard c.instr = false ∧ destination c.instr = none) :=
  ⟨rfl, ⟨_, rfl, by decide⟩, ⟨_, rfl, by decide, rfl⟩, ⟨_, rfl, by decide, rfl⟩⟩

/-- FetchFollowsItsFourTests: the premises of its five clauses. -/
theorem witness_fetch : { addStart with redir := true }.redir = true ∧
    ({ addStart with fen := false }.redir = false ∧ { addStart with fen := false }.fen = false) ∧
    ((decoding .nop false).redir = false ∧ (decoding .nop false).fen = true ∧
      (decoding .nop false).ld.content.isSome = true) ∧
    (addStart.redir = false ∧ addStart.fen = true ∧ addStart.ld.content = none ∧
      { addStart with pc := 4012#32 }.recordAt 4012#32 = none) ∧
    ∃ w r, addStart.recordAt addStart.pc = some w ∧ decodeRecord w = .ok r := by
  refine ⟨rfl, ⟨rfl, rfl⟩, ⟨rfl, rfl, rfl⟩, ⟨rfl, rfl, rfl, by decide⟩, 0x0A10000000000005#64, ⟨.movc, 1, 0, 0, 0, 5⟩, ?_⟩
  decide

/-- BZ and BNZ at 4004, taken back to the first record. -/
def takenBz : State := holding (.bz (wrap32 (-4))) 0 0 0 true
def takenBnz : State := holding (.bnz (wrap32 (-4))) 0 0 0 false

/-- TakenBranchFlushesAndSuppressesOneFetch: the tick of each branch and the tick after it. -/
theorem witness_takenBranch : takenBz.status = .running ∧
    (takenBz.lx.content.map InstructionContext.instr = some (.bz (wrap32 (-4))) ∧ takenBz.z = true) ∧
    (next? (step takenBz)).isSome = true ∧ (after 1 takenBz).status = .running ∧
    portRecord (after 1 takenBz) = some Instr.nop.record ∧ (next? (step (after 1 takenBz))).isSome = true := by decide

theorem witness_takenBranch_bnz : takenBnz.status = .running ∧
    (takenBnz.lx.content.map InstructionContext.instr = some (.bnz (wrap32 (-4))) ∧ takenBnz.z = false) ∧
    (next? (step takenBnz)).isSome = true ∧ (after 1 takenBnz).status = .running ∧
    portRecord (after 1 takenBnz) = some Instr.nop.record ∧ (next? (step (after 1 takenBnz))).isSome = true := by decide

/-- A branch in `LX` and an instruction in `LD`, with a given scoreboard bit 3. -/
def behindBranch (branch i : Instr) (pending : Bool) : State :=
  { (busy none none (some branch)).setPending 3#4 pending with
    ld := { content := some (fetchedContext 4000#32 i.record), stall := false } }

/-- WithoutTakenBranchDecodeIssuesOrKeeps: behind a BZ that is not taken, one instruction issued and one kept. -/
theorem witness_notTaken : ∀ pending : Bool, (behindBranch (.bz 8#32) (.movc 3#4 7#32) pending).status = .running ∧
    (∃ t, step (behindBranch (.bz 8#32) (.movc 3#4 7#32) pending) = .next t ∧ t.status ≠ .faulted) ∧
    (behindBranch (.bz 8#32) (.movc 3#4 7#32) pending).ld.content.isSome = true ∧
    (∀ (b : InstructionContext) (imm : Word),
      (behindBranch (.bz 8#32) (.movc 3#4 7#32) pending).lx.content = some b →
      ¬ ((b.instr = .bz imm ∧ (behindBranch (.bz 8#32) (.movc 3#4 7#32) pending).z = true) ∨
         (b.instr = .bnz imm ∧ (behindBranch (.bz 8#32) (.movc 3#4 7#32) pending).z = false))) := by
  intro pending
  refine ⟨rfl, ?_, rfl, ?_⟩
  · cases pending <;> exact ⟨_, rfl, by decide⟩
  · intro b imm hb
    cases hb
    rintro (⟨_, h⟩ | ⟨h, _⟩) <;> cases h

/-- StuckMachineOnlyCounts: the program that ran past its last record (95_test_vectors.md P6). -/
theorem witness_stuck : { addStart with fen := false }.stuck := by decide

/-- A store in `LW` and a load of the same word in `LM` (95_test_vectors.md S4, tick 8). -/
def storeThenLoad : State := busy (some (.store 1#4 0#4 4#32)) (some (.load 2#4 0#4 4#32)) none

/-- What `busy` puts into a latch. -/
def heldContext (i : Instr) : InstructionContext :=
  { pc := 4000#32, record := i.record, v1 := some 6#32, v2 := some 2#32, v3 := some 2#32, result := some 7#32,
    addr := some 4#32 }

/-- LoadSeesTheStoreOfTheSameTick. -/
theorem witness_storeThenLoad : storeThenLoad.status = .running ∧ Memory.wf storeThenLoad.dmem = true ∧
    storeThenLoad.lw.content = some (heldContext (.store 1#4 0#4 4#32)) ∧
    storeClass (heldContext (.store 1#4 0#4 4#32)).instr = true ∧
    storeThenLoad.lm.content = some (heldContext (.load 2#4 0#4 4#32)) ∧
    loadClass (heldContext (.load 2#4 0#4 4#32)).instr = true ∧
    (heldContext (.load 2#4 0#4 4#32)).addrField = (heldContext (.store 1#4 0#4 4#32)).addrField ∧
    (next? (step storeThenLoad)).isSome = true := by decide

/-- RecordsStandAtStrideFour: below, at, between, at the last, past. -/
theorem witness_records : recordIn 4000#32 addProgram 3996#32 = none ∧
    recordIn 4000#32 addProgram 4000#32 = some 0x0A10000000000005#64 ∧ recordIn 4000#32 addProgram 4002#32 = none ∧
    recordIn 4000#32 addProgram 4008#32 = some 0x1200000000000000#64 ∧
    recordIn 4000#32 addProgram 4012#32 = none := by decide

/-- PipelineHaltsAsTheSequentialMachine: a program the sequential machine halts on. -/
theorem witness_sequential_halts :
    (sequentialRun Params.default addProgram 3 (SequentialState.initial Params.default)).status = .halted := by decide

/-- PipelineFaultsAsTheSequentialMachine: 95_test_vectors.md S5. -/
theorem witness_sequential_faults : initializeRun [0x0A10000000000007#64, 0x0B31200000000000#64] 4000 4096 none =
      .ok (State.initial Params.default [0x0A10000000000007#64, 0x0B31200000000000#64]) ∧
    (sequentialRun Params.default [0x0A10000000000007#64, 0x0B31200000000000#64] 2
      (SequentialState.initial Params.default)).status = .faulted .arithmetic 4004#32 0x0B#8 := by decide

/-- PipelineRunsOnAsTheSequentialMachine: `BNZ #0` branches to itself for ever. -/
theorem witness_sequential_runs_on : ∀ (n : Nat) (q : SequentialState), q.status = .running → q.z = false →
    q.apc = 4000#32 → (sequentialRun Params.default [encode (.bnz 0#32)] n q).status = .running := by
  have hrec : recordIn Params.default.pcBase [encode (.bnz 0#32)] 4000#32 = some (encode (.bnz 0#32)) := by decide
  have hdec : decode (encode (.bnz 0#32)) = .ok (.bnz 0#32) := by decide
  have htarget : branchTarget 4000#32 0#32 = 4000#32 := by decide
  intro n
  induction n with
  | zero => intro q h _ _; exact h
  | succ n ih =>
    intro q h hz ha
    have hstep : sequentialStep Params.default [encode (.bnz 0#32)] q =
        { q with apc := 4000#32, executed := q.executed + 1 } := by
      simp only [sequentialStep, h, if_true, ha, hrec, hdec, architecturalEffect, SequentialState.branch, hz, htarget,
        SequentialState.count, Bool.not_false]
    rw [sequentialRun, hstep]
    exact ih _ h hz rfl

theorem witness_runs_on_initialize : initializeRun [encode (.bnz 0#32)] 4000 4096 none =
    .ok (State.initial Params.default [encode (.bnz 0#32)]) := by decide

end Sys2Proof.Tests
end

/-! ## Wrapping to 32 bits (R7)

`wrap32` depends on its argument modulo `2^32` only and is the identity on the signed 32-bit range, so the value it
gives is the only congruent one there. -/

namespace Sys2Proof.Machine

/-- Every word, read signed, lies in the 32-bit signed range. -/
theorem toInt_word_bounds (w : Word) : -2147483648 ≤ w.toInt ∧ w.toInt ≤ 2147483647 :=
  ⟨w.le_toInt, BitVec.toInt_le⟩

@[simp] theorem toInt_wrap32_emod (n : Int) : (wrap32 n).toInt % 4294967296 = n % 4294967296 := by
  rw [wrap32, BitVec.toInt_ofInt]
  exact Int.bmod_emod

theorem toInt_wrap32_of_bounds {m : Int} (hlo : -2147483648 ≤ m) (hhi : m ≤ 2147483647) : (wrap32 m).toInt = m :=
  BitVec.toInt_ofInt_eq_self (by decide) hlo (Int.lt_add_one_of_le hhi)

theorem wrap32_eq_of_emod_eq {m n : Int} (h : m % 4294967296 = n % 4294967296) : wrap32 m = wrap32 n := by
  apply BitVec.eq_of_toInt_eq
  have hm := toInt_word_bounds (wrap32 m)
  have hn := toInt_word_bounds (wrap32 n)
  have hcongr : (wrap32 m).toInt % 4294967296 = (wrap32 n).toInt % 4294967296 := by
    rw [toInt_wrap32_emod, toInt_wrap32_emod, h]
  omega

/-- Settles O6: the range and the congruence hold of `wrap32 n`, and another value `m` that has both is
`wrap32 m` read signed, the same word as `wrap32 n`. -/
theorem wrapIsTheUniqueCongruentValue : Obligations.WrapIsTheUniqueCongruentValue := by
  intro n
  obtain ⟨hlo, hhi⟩ := toInt_word_bounds (wrap32 n)
  refine ⟨⟨hlo, hhi, toInt_wrap32_emod n⟩, fun m hmlo hmhi hcongr => ?_⟩
  calc m = (wrap32 m).toInt := (toInt_wrap32_of_bounds hmlo hmhi).symm
    _ = (wrap32 n).toInt := by rw [wrap32_eq_of_emod_eq hcongr]

end Sys2Proof.Machine

/-! ## The invariant across a tick (R11, R19, R20, R22, R89, R182, R196)

Every phase keeps `State.Inv` but for `REDIR`, which a taken branch sets and the end of tick clears (R19). So the tick's
invariant is `State.PhaseInv`, kept by one lemma per phase. Each phase's premise is the latch before it being empty: WB
leaves `LW` empty for MEM, MEM leaves `LM` empty for EX, EX without a fault leaves `LX` empty for D. -/

namespace Sys2Proof.Machine

/-- The invariant between two phases of one tick: `REDIR` may be 1 (R19). -/
abbrev State.PhaseInv (s : State) : Prop := s.clearRedirect.Inv

namespace State

theorem Inv.phaseInv {s : State} (h : s.Inv) : s.PhaseInv := { h with redirectClear := rfl }

theorem PhaseInv.inv {s : State} (h : s.PhaseInv) (hr : s.redir = false) : s.Inv := { h with redirectClear := hr }

theorem PhaseInv.endTick {s : State} (h : s.PhaseInv) : s.endTick.Inv := { h with redirectClear := rfl }

/-! ### What the invariant says of an occupied latch -/

/-- A held instruction with new operands, result or address is still the record at its own address (R20). -/
theorem holdsItsRecord_of_identity {s : State} {o : Option InstructionContext} {c d : InstructionContext}
    (h : s.holdsItsRecord o) (hc : o = some c) (hpc : d.pc = c.pc) (hrec : d.record = c.record) :
    s.holdsItsRecord (some d) := by
  rintro _ ⟨⟩
  rw [hpc, hrec]
  exact h c hc

theorem holdsItsRecord_none (s : State) : s.holdsItsRecord none := fun _ hc => nomatch hc

theorem PhaseInv.writers {s : State} (h : s.PhaseInv) (r : Reg) :
    s.lx.writes r + s.lm.writes r + s.lw.writes r = if s.pending r then 1 else 0 := h.scoreboard r

theorem PhaseInv.not_halted_of_lx {s : State} {c : InstructionContext} (h : s.PhaseInv) (hc : s.lx.content = some c) :
    s.status ≠ .halted := by
  intro hs
  obtain ⟨_, ⟨hlx, _, _⟩, _, _⟩ := h.haltedDrained hs
  exact Option.some_ne_none c (hc.symm.trans hlx)

theorem PhaseInv.not_faulted_of_lx_empty {s : State} (h : s.PhaseInv) (hx : s.lx.content = none) :
    s.status ≠ .faulted := by
  intro hs
  obtain ⟨_, _, c, hc, _⟩ := h.faultHeld hs
  exact Option.some_ne_none c (hc.symm.trans hx)

/-- While `LX` is occupied, `LM` and `LW` hold no HALT (R89). -/
theorem PhaseInv.no_halt_ahead_of_lx {s : State} {c : InstructionContext} (h : s.PhaseInv)
    (hc : s.lx.content = some c) : ¬ s.lm.holdsHalt ∧ ¬ s.lw.holdsHalt := by
  have hne : s.lx.content ≠ none := by simp [hc]
  constructor <;> intro hh
  · obtain ⟨_, _, hlx⟩ := h.haltInMemory hh
    exact hne hlx
  · obtain ⟨_, _, hlx, _⟩ := h.haltInWriteback hh
    exact hne hlx

/-- A latch empty of instructions holds no HALT. -/
theorem not_holdsHalt_of_empty {l : Latch} (h : l.content = none) : ¬ l.holdsHalt := by
  simp [Latch.holdsHalt, h]

/-! ### Writeback -/

/-- With `LW` emptied and its destination no longer pending, the scoreboard still counts the writers in flight: the
retired instruction was its destination's only one (R11, R84). -/
theorem PhaseInv.writers_retire {s : State} {c : InstructionContext} (h : s.PhaseInv) (hc : s.lw.content = some c)
    (r : Reg) :
    s.lx.writes r + s.lm.writes r = if destination c.instr = some r then 0 else if s.pending r then 1 else 0 := by
  have hr := h.writers r
  rw [Latch.writes_some hc] at hr
  by_cases hd : destination c.instr = some r
  · have : s.pending r = true := by
      by_contra hp
      simp [hd, hp] at hr
    simp_all
  · have hw : (destination c.instr == some r) = false := by simpa using hd
    simpa [hd, hw] using hr

theorem pending_commitRegister (s : State) (c : InstructionContext) (r : Reg) :
    (s.commitRegister c).pending r = if destination c.instr = some r then false else s.pending r := by
  unfold commitRegister
  cases destination c.instr with
  | none => simp
  | some rd => simp [pending_setPending]

/-- The register commit, field by field: besides the registers it touches the scoreboard and the stall flags (R84,
R85). -/
theorem commitRegister_fields (s : State) (c : InstructionContext) :
    s.commitRegister c = { s with
      x := (s.commitRegister c).x
      pend := (s.commitRegister c).pend
      ld := { s.ld with stall := (destination c.instr).isNone && s.ld.stall }
      lf := { s.lf with stall := (destination c.instr).isNone && s.lf.stall } } := by
  unfold commitRegister
  cases destination c.instr <;> rfl

theorem PhaseInv.commitRegister_emptyWriteback {s : State} {c : InstructionContext} (h : s.PhaseInv)
    (hc : s.lw.content = some c) : (s.commitRegister c).emptyWriteback.PhaseInv := by
  have hpend := pending_commitRegister s c
  have hwriters := h.writers_retire hc
  rw [commitRegister_fields]
  obtain ⟨hld, hlx, hlm, _⟩ := h.recordsUnchanged
  exact { h with
    scoreboard := fun r => by
      change s.lx.writes r + s.lm.writes r + 0 = if (s.commitRegister c).pending r then 1 else 0
      rw [hwriters r, hpend r]
      split <;> simp
    stallsAgree := congrArg ((destination c.instr).isNone && ·) h.stallsAgree
    stallValid := fun hs => h.stallValid (Bool.and_eq_true_iff.1 hs).2
    stallBubble := fun hs => h.stallBubble (Bool.and_eq_true_iff.1 hs).2
    recordsUnchanged := ⟨hld, hlx, hlm, holdsItsRecord_none _⟩
    loaded := fun _ hd => nomatch hd
    haltInWriteback := fun hh => (not_holdsHalt_of_empty rfl hh).elim
    haltedDrained := fun hs => by
      obtain ⟨_, ⟨_, _, hlw⟩, _, _⟩ := h.haltedDrained hs
      exact (Option.some_ne_none c (hc.symm.trans hlw)).elim }

theorem PhaseInv.storeWord {s : State} (h : s.PhaseInv) {a : Nat} (ha : a < s.params.dmemWords) (v : Word) :
    (s.storeWord a v).PhaseInv :=
  { h with
    dmemCanonical := Memory.wf_write h.dmemCanonical a v
    dmemBounded := Memory.below_write h.dmemBounded ha v }

/-- A drained machine with fetch shut may halt: with no writer in flight nothing is pending (R89, R182). -/
theorem PhaseInv.setHalted {s : State} (h : s.PhaseInv) (hld : s.ld.content = none) (hback : s.backEmpty)
    (hfen : s.fen = false) : s.setHalted.PhaseInv := by
  obtain ⟨hlx, hlm, hlw⟩ := hback
  have hpend (r : Reg) : s.pending r = false := by
    simpa [hlx, hlm, hlw] using h.writers r
  exact { h with
    haltedDrained := fun _ => ⟨hld, ⟨hlx, hlm, hlw⟩, hfen, hpend⟩
    faultClear := fun _ => h.faultClear (h.not_faulted_of_lx_empty hlx)
    faultHeld := fun hs => nomatch hs }

theorem wbPhase_phaseInv {s t : State} (h : s.PhaseInv) (ht : wbPhase s = .next t) : t.PhaseInv := by
  rcases wbPhase_cases ht with ⟨_, rfl⟩ | ⟨c, u, hc, hu, rfl⟩
  · exact h
  · have hreg := h.commitRegister_emptyWriteback hc
    have hstored : u.emptyWriteback.PhaseInv := by
      rcases commitStore_cases hu with ⟨_, rfl⟩ | ⟨_, ha, rfl⟩
      · exact { hreg with }
      · rw [hasWord, decide_eq_true_eq] at ha
        exact { hreg.storeWord ha c.resultField with }
    by_cases hhalt : c.instr = .halt
    · obtain ⟨hfen, hld, hlx, hlm⟩ := h.haltInWriteback ⟨c, hc, hhalt⟩
      obtain ⟨_, _, _, _, hfen', _, _, hld', hlx', hlm', hlw', _, _⟩ := wbPhase_fields ht
      rw [signalHalt, if_pos hhalt] at hfen' hld' hlx' hlm' hlw' ⊢
      have hback : u.emptyWriteback.backEmpty :=
        ⟨(congrArg Latch.content hlx').trans hlx, (congrArg Latch.content hlm').trans hlm, rfl⟩
      exact hstored.setHalted (hld'.trans hld) hback (hfen'.trans hfen)
    · rwa [signalHalt, if_neg hhalt]

/-! ### Memory -/

/-- The Memory phase moves an instruction from `LM` to an empty `LW` and completes a load's result (R88). -/
theorem PhaseInv.toWriteback {s : State} {c d : InstructionContext} (h : s.PhaseInv) (hc : s.lm.content = some c)
    (hlw : s.lw.content = none) (hpc : d.pc = c.pc) (hrec : d.record = c.record) (hd : s.writebackFields d) :
    (s.toWriteback d).PhaseInv := by
  have hinstr : d.instr = c.instr := congrArg Record.instr hrec
  obtain ⟨hld, hlx, hlm, _⟩ := h.recordsUnchanged
  exact { h with
    scoreboard := fun r => by
      have hr := h.writers r
      rw [Latch.writes_some hc, Latch.writes_none hlw, ← hinstr] at hr
      exact hr
    recordsUnchanged := ⟨hld, hlx, holdsItsRecord_none _, holdsItsRecord_of_identity hlm hc hpc hrec⟩
    executed := fun _ hd => nomatch hd
    loaded := by rintro _ ⟨⟩; exact hd
    haltInMemory := fun hh => (not_holdsHalt_of_empty rfl hh).elim
    haltInWriteback := by
      rintro ⟨_, ⟨⟩, hh⟩
      obtain ⟨hfen, hld, hlx⟩ := h.haltInMemory ⟨c, hc, hinstr ▸ hh⟩
      exact ⟨hfen, hld, hlx, rfl⟩
    haltedDrained := fun hs => by
      obtain ⟨_, ⟨_, hlm, _⟩, _, _⟩ := h.haltedDrained hs
      exact (Option.some_ne_none c (hc.symm.trans hlm)).elim
    faultHeld := fun hs => by
      obtain ⟨_, hlm, _⟩ := h.faultHeld hs
      exact (Option.some_ne_none c (hc.symm.trans hlm)).elim }

theorem memPhase_phaseInv {s t : State} (h : s.PhaseInv) (hlw : s.lw.content = none) (ht : memPhase s = .next t) :
    t.PhaseInv := by
  rcases memPhase_cases ht with ⟨_, rfl⟩ | ⟨c, hc, hload, _, rfl⟩ | ⟨c, hc, hload, rfl⟩
  · exact h
  · obtain ⟨_, _, hstore⟩ := h.executed c hc
    exact h.toWriteback hc hlw rfl rfl ⟨fun _ => rfl, fun hs => ⟨(hstore hs).1, rfl⟩⟩
  · obtain ⟨hresult, _, hstore⟩ := h.executed c hc
    exact h.toWriteback hc hlw rfl rfl ⟨fun hd => hresult hd hload, hstore⟩

/-! ### Execute -/

/-- A completed instruction moves from `LX` to an empty `LM` (R90). -/
theorem PhaseInv.toMemory {s : State} {c d : InstructionContext} (h : s.PhaseInv) (hc : s.lx.content = some c)
    (hlm : s.lm.content = none) (hs : s.status ≠ .faulted) (hpc : d.pc = c.pc) (hrec : d.record = c.record)
    (hd : s.executedFields d) : (s.toMemory d).PhaseInv := by
  have hinstr : d.instr = c.instr := congrArg Record.instr hrec
  obtain ⟨hld, hlx, _, hlw⟩ := h.recordsUnchanged
  exact { h with
    scoreboard := fun r => by
      have hr := h.writers r
      rw [Latch.writes_some hc, Latch.writes_none hlm, ← hinstr] at hr
      change 0 + (destination d.instr == some r).toNat + s.lw.writes r = if s.pending r then 1 else 0
      omega
    stallBubble := fun _ => rfl
    recordsUnchanged := ⟨hld, holdsItsRecord_none _, holdsItsRecord_of_identity hlx hc hpc hrec, hlw⟩
    operandsRead := fun _ hd => nomatch hd
    executed := by rintro _ ⟨⟩; exact hd
    haltInExecute := fun hh => (not_holdsHalt_of_empty rfl hh).elim
    haltInMemory := by
      rintro ⟨_, ⟨⟩, hh⟩
      obtain ⟨hfen, hld⟩ := h.haltInExecute ⟨c, hc, hinstr ▸ hh⟩
      exact ⟨hfen, hld, rfl⟩
    haltInWriteback := fun hh => ((h.no_halt_ahead_of_lx hc).2 hh).elim
    haltedDrained := fun hs => (h.not_halted_of_lx hc hs).elim
    faultHeld := fun hs' => (hs hs').elim }

/-- A taken branch opens fetch and empties `LD`; no HALT is in flight around a branch in `LX` (R92, R170). -/
theorem PhaseInv.redirect {s : State} {c : InstructionContext} (h : s.PhaseInv) (hc : s.lx.content = some c)
    (hne : c.instr ≠ .halt) (target : Word) : (s.redirect target).PhaseInv := by
  obtain ⟨_, hlx, hlm, hlw⟩ := h.recordsUnchanged
  obtain ⟨hnlm, hnlw⟩ := h.no_halt_ahead_of_lx hc
  exact { h with
    stallsAgree := rfl
    stallValid := nofun
    stallBubble := nofun
    recordsUnchanged := ⟨holdsItsRecord_none _, hlx, hlm, hlw⟩
    fetchAddress := fun _ hd => nomatch hd
    haltInDecode := fun hh => (not_holdsHalt_of_empty rfl hh).elim
    haltInExecute := by
      rintro ⟨d, hd, hh⟩
      cases hc.symm.trans hd
      exact (hne hh).elim
    haltInMemory := fun hh => (hnlm hh).elim
    haltInWriteback := fun hh => (hnlw hh).elim
    haltedDrained := fun hs => (h.not_halted_of_lx hc hs).elim }

theorem PhaseInv.updateZ {s : State} (h : s.PhaseInv) (b : Option Bool) : (s.updateZ b).PhaseInv := by
  rw [updateZ_eq]
  exact { h with }

/-- A fault leaves the instruction in `LX` and `LM` empty (R196). -/
theorem PhaseInv.enterFault {s : State} {c : InstructionContext} (h : s.PhaseInv) (hc : s.lx.content = some c)
    (hlm : s.lm.content = none) {k : FaultKind} (hk : k ≠ .none) : (s.enterFault k c).PhaseInv :=
  { h with
    haltedDrained := nofun
    faultClear := fun hs => (hs rfl).elim
    faultHeld := fun _ => ⟨hk, hlm, c, hc, rfl, rfl⟩ }

end State

theorem produced_isSome {new : Option Word} (old : Option Word) (h : new.isSome) : (produced new old).isSome := by
  obtain ⟨v, rfl⟩ := Option.isSome_iff_exists.1 h
  rfl

theorem divUnit_fault {c : InstructionContext} {k : FaultKind} (h : divUnit c = .fault k) : k = .arithmetic := by
  unfold divUnit at h
  split at h <;> cases h
  rfl

theorem addressAnswer_fault {n : Nat} {base off : Word} {result : Option Word} {k : FaultKind}
    (h : addressAnswer n base off result = .fault k) : k = .address := by
  unfold addressAnswer at h
  split at h <;> cases h
  rfl

/-- Only DIV and the four memory instructions fault, with the kind of R191 or R192; kind 0 stands for no fault. -/
theorem executeAnswer_fault_kind {n : Nat} {z : Bool} {i : Instr} {c : InstructionContext} {k : FaultKind}
    (h : executeAnswer n z i c = .fault k) : k ≠ .none := by
  cases i with
  | div => rw [divUnit_fault h]; decide
  | load => rw [addressAnswer_fault h]; decide
  | store => rw [addressAnswer_fault h]; decide
  | ldr => rw [addressAnswer_fault h]; decide
  | str => rw [addressAnswer_fault h]; decide
  | _ => cases h

namespace State

theorem executedFields_iff_of_params {s t : State} (h : t.params = s.params) {c : InstructionContext} :
    t.executedFields c ↔ s.executedFields c := by
  simp only [executedFields, addressChecked, h]

/-- What Execute produces is what `LM` must hold (R90, R160). -/
theorem executedFields_of_executeAnswer {s : State} {z : Bool} {c : InstructionContext} {e : Executed}
    (hsize : dmemWordsLegal s.params.dmemWords = true)
    (he : executeAnswer s.params.dmemWords z c.instr c = .ok e) :
    s.executedFields { c with result := produced e.result c.result, addr := produced e.addr c.addr } := by
  have hmax : s.params.dmemWords ≤ Config.maxDmemWords := by
    rw [dmemWordsLegal, Bool.and_eq_true, decide_eq_true_eq, decide_eq_true_eq] at hsize
    exact hsize.2
  obtain ⟨_, hresult, hdata, haddr, _⟩ := executeAnswer_ok he
  have hchecked (hm : loadClass c.instr = true ∨ storeClass c.instr = true) :
      s.addressChecked { c with result := produced e.result c.result, addr := produced e.addr c.addr } := by
    obtain ⟨a, ha, hlt⟩ := haddr hm hmax
    simpa [addressChecked, InstructionContext.addrField, produced, ha] using hlt
  exact ⟨fun hd hl => produced_isSome _ (hresult hd hl), fun hl => hchecked (.inl hl),
    fun hst => ⟨hchecked (.inr hst), produced_isSome _ (hdata hst)⟩⟩

theorem PhaseInv.finishExecute {s : State} {c : InstructionContext} {e : Executed} (h : s.PhaseInv)
    (hc : s.lx.content = some c) (hlm : s.lm.content = none) (hs : s.status ≠ .faulted)
    (he : executeAnswer s.params.dmemWords s.z c.instr c = .ok e) : (s.finishExecute c e).PhaseInv := by
  obtain ⟨_, _, _, _, htaken⟩ := executeAnswer_ok he
  have hz := h.updateZ e.newZ
  have hzc : (s.updateZ e.newZ).lx.content = some c := by rw [updateZ_eq]; exact hc
  have hbranch : ((s.updateZ e.newZ).updateBranch e.taken).PhaseInv := by
    cases hk : e.taken with
    | none => exact hz
    | some target =>
      obtain ⟨_, hne⟩ := htaken (by simp [hk])
      exact hz.redirect hzc hne target
  have hparams : ((s.updateZ e.newZ).updateBranch e.taken).params = s.params := by simp [updateZ_eq]
  have hfields := (executedFields_iff_of_params hparams).2 (executedFields_of_executeAnswer h.dmemSize he)
  refine hbranch.toMemory (c := c) ?_ ?_ ?_ rfl rfl hfields
  all_goals simpa [updateZ_eq]

theorem exPhase_phaseInv {s t : State} (h : s.PhaseInv) (hlm : s.lm.content = none) (hs : s.status ≠ .faulted)
    (ht : exPhase s = .next t) : t.PhaseInv := by
  rcases exPhase_cases ht with ⟨_, rfl⟩ | ⟨c, k, hc, hk, rfl⟩ | ⟨c, e, hc, he, rfl⟩
  · exact h
  · exact PhaseInv.enterFault (s := s.clearRedirect) h hc hlm (executeAnswer_fault_kind hk)
  · exact PhaseInv.finishExecute (s := s.clearRedirect) h hc hlm hs he

/-- After Execute: a fault has left `REDIR` at 0; else `LX` is empty for Decode (R90, R91, R196). -/
theorem exPhase_lx_redir {s t : State} (hs : s.status ≠ .faulted) (ht : exPhase s = .next t) :
    (t.status = .faulted → t.redir = false) ∧ (t.status ≠ .faulted → t.lx.content = none) := by
  rcases exPhase_cases ht with ⟨hx, rfl⟩ | ⟨c, k, _, _, rfl⟩ | ⟨c, e, _, _, rfl⟩
  · exact ⟨fun _ => rfl, fun _ => hx⟩
  · exact ⟨fun _ => rfl, fun hne => (hne rfl).elim⟩
  · rw [finishExecute_eq]
    exact ⟨fun hf => (hs hf).elim, fun _ => rfl⟩

/-! ### Decode -/

theorem pendingOperand_of_no_hazard {s : State} {i : Instr} (h : s.hazard i = false) {r : Reg}
    (hd : destination i = some r) : s.pending r = false := by
  rw [hazard, Bool.or_eq_false_iff, hd] at h
  exact h.2

theorem pending_markDestination (s : State) (i : Instr) (r : Reg) :
    (s.markDestination i).pending r = if destination i = some r then true else s.pending r := by
  unfold markDestination
  cases destination i with
  | none => simp
  | some rd => simp [pending_setPending]

theorem markDestination_fields (s : State) (i : Instr) :
    s.markDestination i = { s with pend := (s.markDestination i).pend } := by
  unfold markDestination
  cases destination i <;> rfl

theorem readOperand_isSome (s : State) {r : Option Reg} (old : Option Word) (h : r.isSome) :
    (s.readOperand r old).isSome := by
  obtain ⟨q, rfl⟩ := Option.isSome_iff_exists.1 h
  rfl

theorem readOperands_operandsRead (s : State) (c : InstructionContext) : (s.readOperands c).operandsRead :=
  ⟨readOperand_isSome s c.v1, readOperand_isSome s c.v2, readOperand_isSome s c.v3⟩

/-- A hazard stalls Decode behind an empty `LX` (R95). -/
theorem PhaseInv.stall {s : State} {c : InstructionContext} (h : s.PhaseInv) (hc : s.ld.content = some c)
    (hlx : s.lx.content = none) : (s.setStalls true).PhaseInv :=
  { h with
    stallsAgree := rfl
    stallValid := fun _ => Option.isSome_iff_exists.2 ⟨c, hc⟩
    stallBubble := fun _ => hlx }

/-- Without a hazard the instruction's destination has no writer in flight, and becomes pending as it enters `LX`
(R11, R96, R97, R98). -/
theorem PhaseInv.issue {s : State} {c : InstructionContext} (h : s.PhaseInv) (hc : s.ld.content = some c)
    (hlx : s.lx.content = none) (hz : s.hazard c.instr = false) :
    ((s.markDestination c.instr).issue (s.readOperands c)).PhaseInv := by
  have hpend := pending_markDestination s c.instr
  have hne : s.ld.content ≠ none := by simp [hc]
  rw [markDestination_fields]
  obtain ⟨hld, _, hlm, hlw⟩ := h.recordsUnchanged
  exact { h with
    scoreboard := fun r => by
      change (destination c.instr == some r).toNat + s.lm.writes r + s.lw.writes r =
        if (s.markDestination c.instr).pending r then 1 else 0
      have hr := h.writers r
      rw [Latch.writes_none hlx] at hr
      rw [hpend r]
      by_cases hd : destination c.instr = some r
      · have hp := pendingOperand_of_no_hazard hz hd
        simp [hd, hp] at hr ⊢
        omega
      · have hw : (destination c.instr == some r) = false := by simpa using hd
        simp [hd, hw] at hr ⊢
        omega
    stallsAgree := rfl
    stallValid := nofun
    stallBubble := nofun
    recordsUnchanged := ⟨holdsItsRecord_none _, holdsItsRecord_of_identity hld hc rfl rfl, hlm, hlw⟩
    fetchAddress := fun _ hd => nomatch hd
    operandsRead := by rintro _ ⟨⟩; exact readOperands_operandsRead s c
    haltInDecode := fun hh => (not_holdsHalt_of_empty rfl hh).elim
    haltInExecute := by
      rintro ⟨_, ⟨⟩, hh⟩
      exact ⟨h.haltInDecode ⟨c, hc, hh⟩, rfl⟩
    haltInMemory := fun hh => by
      obtain ⟨_, hempty, _⟩ := h.haltInMemory hh
      exact (hne hempty).elim
    haltInWriteback := fun hh => by
      obtain ⟨_, hempty, _, _⟩ := h.haltInWriteback hh
      exact (hne hempty).elim
    haltedDrained := fun hs => (hne (h.haltedDrained hs).1).elim
    faultHeld := fun hs => (h.not_faulted_of_lx_empty hlx hs).elim }

theorem decodePhase_phaseInv {s : State} (h : s.PhaseInv) (hlx : s.lx.content = none) : (decodePhase s).PhaseInv := by
  rcases decodePhase_cases s with ⟨_, hd⟩ | ⟨c, hc, _, hd⟩ | ⟨c, hc, hz, hd⟩ <;> rw [hd]
  · exact h
  · exact h.stall hc hlx
  · exact h.issue hc hlx hz

/-! ### Fetch -/

/-- With fetch open, no HALT is in flight and the machine has not halted (R89, R104, R182). -/
theorem PhaseInv.fetched {s : State} {w : RecordWord} {r : Record} (h : s.PhaseInv) (hfen : s.fen = true)
    (hw : s.recordAt s.pc = some w) (hr : decodeRecord w = .ok r) : (s.fetched r).PhaseInv := by
  have hne : s.fen ≠ false := by simp [hfen]
  obtain ⟨_, hlx, hlm, hlw⟩ := h.recordsUnchanged
  exact { h with
    stallsAgree := rfl
    stallValid := nofun
    stallBubble := nofun
    recordsUnchanged := ⟨by rintro _ ⟨⟩; exact ⟨w, hw, hr⟩, hlx, hlm, hlw⟩
    fetchAddress := by rintro _ ⟨⟩; rfl
    haltInDecode := by
      rintro ⟨_, ⟨⟩, hh⟩
      exact if_pos ((Record.instr_eq_halt r).1 hh)
    haltInExecute := fun hh => (hne (h.haltInExecute hh).1).elim
    haltInMemory := fun hh => (hne (h.haltInMemory hh).1).elim
    haltInWriteback := fun hh => (hne (h.haltInWriteback hh).1).elim
    haltedDrained := fun hs => by
      obtain ⟨_, _, hshut, _⟩ := h.haltedDrained hs
      exact (hne hshut).elim }

theorem PhaseInv.shutFetch {s : State} (h : s.PhaseInv) : s.shutFetch.PhaseInv :=
  { h with
    haltInDecode := fun _ => rfl
    haltInExecute := fun hh => ⟨rfl, (h.haltInExecute hh).2⟩
    haltInMemory := fun hh => ⟨rfl, (h.haltInMemory hh).2⟩
    haltInWriteback := fun hh => ⟨rfl, (h.haltInWriteback hh).2⟩
    haltedDrained := fun hs =>
      have ⟨hld, hback, _, hpend⟩ := h.haltedDrained hs
      ⟨hld, hback, rfl, hpend⟩ }

theorem fetchPhase_phaseInv {s t : State} (h : s.PhaseInv) (ht : fetchPhase s = .next t) : t.PhaseInv := by
  rcases fetchPhase_cases ht with ⟨_, rfl⟩ | ⟨_, _, _, _, rfl⟩ | ⟨w, r, _, hfen, _, hw, hr, rfl⟩
  · exact h
  · exact h.shutFetch
  · exact h.fetched hfen hw hr

/-! ### The tick -/

/-- Writeback faults nothing: it leaves the status or halts (R89). -/
theorem wbPhase_status {s t : State} (h : wbPhase s = .next t) : t.status = s.status ∨ t.status = .halted := by
  rcases wbPhase_cases h with ⟨_, rfl⟩ | ⟨c, u, _, hu, rfl⟩
  · exact .inl rfl
  · have hstatus : u.status = s.status := by
      rcases commitStore_cases hu with ⟨_, rfl⟩ | ⟨_, _, rfl⟩ <;> rw [commitRegister_fields] <;> rfl
    unfold signalHalt
    split
    · exact .inr rfl
    · exact .inl hstatus

theorem Inv.step {s t : State} (h : s.Inv) (ht : Machine.step s = .next t) : t.Inv := by
  rcases step_cases ht with ⟨_, rfl⟩ | ⟨u, v, w, hs, hwb, hmem, hex, hend⟩
  · exact h
  · have hu : u.PhaseInv := wbPhase_phaseInv h.phaseInv hwb
    have hulw : u.lw.content = none := by
      obtain ⟨_, _, _, _, _, _, _, _, _, _, hlw, _, _⟩ := wbPhase_fields hwb
      rw [hlw]
    have hv : v.PhaseInv := memPhase_phaseInv hu hulw hmem
    obtain ⟨hframe, hlm, _⟩ := memPhase_fields hmem
    have hvlm : v.lm.content = none := by rw [hlm]
    have hvs : v.status ≠ .faulted := by
      rw [hframe]
      rcases wbPhase_status hwb with hus | hus <;> simp [hus, hs]
    have hw : w.PhaseInv := exPhase_phaseInv hv hvlm hvs hex
    obtain ⟨hredir, hlx⟩ := exPhase_lx_redir hvs hex
    rcases hend with ⟨hf, rfl⟩ | ⟨hf, f, hfetch, rfl⟩
    · exact hw.inv (hredir hf)
    · exact (fetchPhase_phaseInv (decodePhase_phaseInv hw (hlx hf)) hfetch).endTick

end State

/-- Settles O11: the five phases each keep the invariant but for `REDIR`, and the end of tick, or the fault that cuts
the tick off, leaves `REDIR` at 0. -/
theorem everyStepKeepsInvariant : Obligations.EveryStepKeepsInvariant :=
  fun _ _ h ht => h.step ht

end Sys2Proof.Machine

/-! ## Counting retirements (R15, R86)

Only Writeback writes `RETIRED`. -/

namespace Sys2Proof.Machine

theorem wbPhase_retired {s t : State} (h : wbPhase s = .next t) :
    t.retired = if s.lw.content.isSome then s.retired + 1#64 else s.retired := by
  rcases wbPhase_cases h with ⟨hw, rfl⟩ | ⟨c, u, hw, hu, rfl⟩
  · simp [hw]
  · have hcount : u.retired = s.retired + 1#64 := by
      rcases State.commitStore_cases hu with ⟨_, rfl⟩ | ⟨_, _, rfl⟩ <;> rw [State.commitRegister_fields] <;> rfl
    simp only [hw, Option.isSome_some, if_true, ← hcount]
    unfold State.signalHalt
    split <;> rfl

theorem exPhase_retired {s t : State} (h : exPhase s = .next t) : t.retired = s.retired := by
  rcases exPhase_cases h with ⟨_, rfl⟩ | ⟨c, k, _, _, rfl⟩ | ⟨c, e, _, _, rfl⟩
  · rfl
  · rfl
  · rw [State.finishExecute_eq]
    rfl

/-- Settles O16: Writeback counts the instruction in `LW`, and no later phase writes `RETIRED`, in a tick that a fault
cuts off either. -/
theorem retiredCountsEachWriteback : Obligations.RetiredCountsEachWriteback := by
  intro s t hs ht
  rcases step_cases ht with ⟨hns, _⟩ | ⟨u, v, w, _, hwb, hmem, hex, hend⟩
  · exact (hns hs).elim
  · obtain ⟨hframe, _, _⟩ := memPhase_fields hmem
    have hv : v.retired = u.retired := by rw [hframe]
    have hw : w.retired = v.retired := exPhase_retired hex
    have htw : t.retired = w.retired := by
      rcases hend with ⟨_, rfl⟩ | ⟨_, f, hfetch, rfl⟩
      · rfl
      · have hf : f.retired = (decodePhase w).retired := by rw [fetchPhase_fields hfetch]
        have hd : (decodePhase w).retired = w.retired := by rw [decodePhase_fields]
        exact hf.trans hd
    rw [htw, hw, hv, wbPhase_retired hwb]
    exact ⟨fun h => if_pos h, fun h => by simp [h]⟩

end Sys2Proof.Machine

/-! ## Loading and reset (R28, R72, R193, R220) -/

namespace Sys2Proof.Machine

/-! ### The memory made from `DMEM_INIT` -/

/-- Word `a + i` of the memory whose words from index `a` on are given is the `i`-th of them, and 0 past the last. -/
theorem Memory.read_ofWordsFrom (a : Nat) (words : List Word) (i : Nat) :
    Memory.read (Memory.ofWordsFrom a words) (a + i) = words[i]?.getD 0#32 := by
  induction words generalizing a i with
  | nil => rfl
  | cons v rest ih =>
    have hfirst : Memory.read (Memory.ofWordsFrom (a + 1) rest) a = 0#32 :=
      Memory.read_below_of_wfFrom (Memory.wfFrom_ofWordsFrom (a + 1) rest) (Nat.lt_succ_self a)
    have hrest (j : Nat) : Memory.read (Memory.ofWordsFrom (a + 1) rest) (a + (j + 1)) = rest[j]?.getD 0#32 := by
      rw [← ih (a + 1) j, Nat.add_assoc, Nat.add_comm 1 j]
    by_cases hv : v = 0#32 <;> cases i <;> simp [Memory.ofWordsFrom, Memory.read_cons, hv, hfirst, hrest]

theorem Memory.below_ofWordsFrom {n a : Nat} {words : List Word} (h : a + words.length ≤ n) :
    Memory.below n (Memory.ofWordsFrom a words) = true := by
  induction words generalizing a with
  | nil => rfl
  | cons v rest ih =>
    rw [List.length_cons] at h
    have hrest := ih (a := a + 1) (by omega)
    have ha : a < n := by omega
    by_cases hv : v = 0#32 <;> simp [Memory.ofWordsFrom, Memory.below_cons, hv, hrest, ha]

/-- Accepted initial contents are canonical and lie in the data space (R6, R47, R193). -/
theorem dmemInitMemory_wf_below {n : Nat} {init : Option (List Word)} {m : Memory}
    (h : dmemInitMemory n init = some m) : Memory.wf m = true ∧ Memory.below n m = true := by
  cases init with
  | none => cases h; exact ⟨rfl, rfl⟩
  | some words =>
    rw [dmemInitMemory, Option.ite_none_right_eq_some] at h
    obtain ⟨hlen, hm⟩ := h
    cases hm
    exact ⟨Memory.wf_ofWordsFrom 0 words, Memory.below_ofWordsFrom (by omega)⟩

/-! ### What an accepted load is -/

/-- No refusal of R193 applies. -/
theorem initProblem_eq_none {table : List RecordWord} {pcBase : Int} {n : Nat} :
    initProblem table pcBase n = none ↔
      table.isEmpty = false ∧ table.all legalWord = true ∧ placementLegal pcBase table.length = true ∧
        dmemWordsLegal n = true := by
  simp only [initProblem]
  split_ifs <;> simp_all

theorem initializeRun_eq_ok {table : List RecordWord} {pcBase : Int} {n : Nat} {init : Option (List Word)} {s : State} :
    initializeRun table pcBase n init = .ok s ↔
      initProblem table pcBase n = none ∧ ∃ m, dmemInitMemory n init = some m ∧
        s = State.initial { pcBase := wrap32 pcBase, dmemWords := n, dmemInit := m } table := by
  unfold initializeRun
  cases initProblem table pcBase n with
  | some e => simp
  | none => cases dmemInitMemory n init <;> simp [eq_comm]

theorem resetEdge_eq_ok {pcBase : Word} {s t : State} :
    resetEdge pcBase s = .ok t ↔
      initProblem s.table pcBase.toInt s.params.dmemWords = none ∧
        t = State.initial { s.params with pcBase := pcBase } s.table := by
  unfold resetEdge
  cases initProblem s.table pcBase.toInt s.params.dmemWords <;> simp [eq_comm]

/-- A legal `PC_BASE` is a word as it is (R6, R72). -/
theorem toInt_wrap32_of_placementLegal {pcBase : Int} {n : Nat} (h : placementLegal pcBase n = true) :
    (wrap32 pcBase).toInt = pcBase := by
  rw [placementLegal, Bool.and_eq_true, decide_eq_true_eq, decide_eq_true_eq] at h
  obtain ⟨hlo, hhi⟩ := h
  rw [Config.instructionWidth, Config.maxProgramEnd] at hhi
  exact toInt_wrap32_of_bounds (by omega) (by omega)

/-! ### The state after reset -/

@[simp] theorem State.reg_initial (params : Params) (table : List RecordWord) (r : Reg) :
    (State.initial params table).reg r = 0#32 := Vector.getElem_replicate _

@[simp] theorem State.pending_initial (params : Params) (table : List RecordWord) (r : Reg) :
    (State.initial params table).pending r = false := Vector.getElem_replicate _

/-- With nothing in flight and nothing pending, the invariant asks only for legal parameters and a legal table (R28,
R72). -/
theorem State.initial_inv {params : Params} {table : List RecordWord} (hwf : Memory.wf params.dmemInit = true)
    (hbelow : Memory.below params.dmemWords params.dmemInit = true) (hsize : dmemWordsLegal params.dmemWords = true)
    (hlegal : table.all legalWord = true) (hplaced : placementLegal params.pcBase.toInt table.length = true) :
    (State.initial params table).Inv where
  dmemCanonical := hwf
  dmemBounded := hbelow
  dmemSize := hsize
  tableLegal := hlegal
  tablePlaced := hplaced
  scoreboard r := by rw [State.pending_initial]; rfl
  redirectClear := rfl
  stallsAgree := rfl
  stallValid := nofun
  stallBubble := nofun
  backNeverStalls := ⟨rfl, rfl, rfl⟩
  recordsUnchanged :=
    ⟨State.holdsItsRecord_none _, State.holdsItsRecord_none _, State.holdsItsRecord_none _, State.holdsItsRecord_none _⟩
  fetchAddress _ hc := nomatch hc
  operandsRead _ hc := nomatch hc
  executed _ hc := nomatch hc
  loaded _ hc := nomatch hc
  haltInDecode hh := (State.not_holdsHalt_of_empty rfl hh).elim
  haltInExecute hh := (State.not_holdsHalt_of_empty rfl hh).elim
  haltInMemory hh := (State.not_holdsHalt_of_empty rfl hh).elim
  haltInWriteback hh := (State.not_holdsHalt_of_empty rfl hh).elim
  haltedDrained := nofun
  faultClear _ := rfl
  faultHeld := nofun

/-- Settles O10: what `initializeRun` checks is what the invariant asks of the state it makes. -/
theorem initializeEstablishesInvariant : Obligations.InitializeEstablishesInvariant := by
  intro table pcBase n init s h
  obtain ⟨hok, m, hm, rfl⟩ := initializeRun_eq_ok.1 h
  obtain ⟨_, hlegal, hplaced, hsize⟩ := initProblem_eq_none.1 hok
  obtain ⟨hwf, hbelow⟩ := dmemInitMemory_wf_below hm
  have hbase := toInt_wrap32_of_placementLegal hplaced
  exact State.initial_inv hwf hbelow hsize hlegal (by rwa [hbase])

/-- Settles O9: the default parameters are legal, and an empty table is placed anywhere. -/
theorem resetSatisfiesInvariant : Obligations.ResetSatisfiesInvariant :=
  State.initial_inv rfl rfl (by decide) rfl (by decide)

/-- Settles O7: both make `State.initial`, whose fields are R28's; `initializeRun` keeps a legal `PC_BASE` and the words
of `DMEM_INIT` as given. -/
theorem resetLeavesTheseValues : Obligations.ResetLeavesTheseValues := by
  constructor
  · intro table pcBase n init s h
    obtain ⟨hok, m, hm, rfl⟩ := initializeRun_eq_ok.1 h
    obtain ⟨_, _, hplaced, _⟩ := initProblem_eq_none.1 hok
    refine ⟨fun r => ⟨State.reg_initial _ _ r, State.pending_initial _ _ r⟩, rfl,
      toInt_wrap32_of_placementLegal hplaced, rfl, rfl, rfl, rfl, rfl, rfl, rfl, rfl, rfl, rfl, rfl, rfl, rfl, ?_, ?_⟩
    · rintro rfl a
      cases hm
      rfl
    · rintro words rfl a ha
      rw [dmemInitMemory, Option.ite_none_right_eq_some] at hm
      obtain ⟨_, hm⟩ := hm
      cases hm
      simpa [State.word, State.initial, ha] using Memory.read_ofWordsFrom 0 words a
  · intro pcBase s t h
    obtain ⟨_, rfl⟩ := resetEdge_eq_ok.1 h
    exact ⟨fun r => ⟨State.reg_initial _ _ r, State.pending_initial _ _ r⟩, rfl, rfl, rfl, rfl, rfl, rfl, rfl, rfl, rfl,
      rfl, rfl, rfl, rfl, rfl, rfl, rfl⟩

end Sys2Proof.Machine

/-! ## The instruction table's addresses (R46) -/

namespace Sys2Proof.Machine

/-- A pc value has record number `k` exactly when it lies `4*k` past `PC_BASE`; neither side wraps. -/
theorem recordIndex_eq_some {pcBase a : Word} {k : Nat} :
    recordIndex pcBase a = some k ↔ a.toInt = pcBase.toInt + 4 * (k : Int) := by
  rw [recordIndex, Option.ite_none_right_eq_some, Option.some_inj]
  omega

theorem recordIn_eq_bind (pcBase : Word) (table : List RecordWord) (a : Word) :
    recordIn pcBase table a = (recordIndex pcBase a).bind (table[·]?) := by
  unfold recordIn
  cases recordIndex pcBase a <;> rfl

/-- Settles O29: the record at a pc value is the one its record number selects. -/
theorem recordsStandAtStrideFour : Obligations.RecordsStandAtStrideFour := by
  intro pcBase table a
  constructor
  · intro w
    simp only [recordIn_eq_bind, Option.bind_eq_some_iff, recordIndex_eq_some]
  · rw [recordIn_eq_bind, Option.bind_eq_none_iff]
    refine forall_congr' fun k => ?_
    rw [recordIndex_eq_some, List.getElem?_eq_none_iff, ← not_lt]
    exact imp_not_comm

end Sys2Proof.Machine

/-! ## A store and a load of the same word in one tick (R49)

Writeback comes before Memory, so the load reads the memory that the store has written, and no later phase writes `LW`
or the memory. -/

namespace Sys2Proof.Machine

theorem wbPhase_dmem_of_storeClass {s t : State} {c : InstructionContext} (hc : s.lw.content = some c)
    (hstore : storeClass c.instr = true) (h : wbPhase s = .next t) :
    t.dmem = Memory.write s.dmem c.addrField c.resultField := by
  rcases wbPhase_cases h with ⟨hempty, _⟩ | ⟨d, u, hd, hu, rfl⟩
  · exact (Option.some_ne_none c (hc.symm.trans hempty)).elim
  · cases hc.symm.trans hd
    have hstored : u.dmem = Memory.write s.dmem c.addrField c.resultField := by
      rcases State.commitStore_cases hu with ⟨hno, _⟩ | ⟨_, _, rfl⟩
      · exact (Bool.false_ne_true (hno.symm.trans hstore)).elim
      · rw [State.commitRegister_fields]
        rfl
    unfold State.signalHalt
    split <;> exact hstored

/-- A load leaves `LM` for `LW` with the word at its address as its result (R88). -/
theorem memPhase_lw_of_loadClass {s t : State} {c : InstructionContext} (hc : s.lm.content = some c)
    (hload : loadClass c.instr = true) (h : memPhase s = .next t) :
    t.lw.content = some { c with result := some (s.word c.addrField) } := by
  rcases memPhase_cases h with ⟨hempty, _⟩ | ⟨d, hd, _, _, rfl⟩ | ⟨d, hd, hno, _⟩
  · exact (Option.some_ne_none c (hc.symm.trans hempty)).elim
  · cases hc.symm.trans hd
    rfl
  · cases hc.symm.trans hd
    exact (Bool.false_ne_true (hno.symm.trans hload)).elim

theorem exPhase_lw_dmem {s t : State} (h : exPhase s = .next t) : t.lw = s.lw ∧ t.dmem = s.dmem := by
  rcases exPhase_cases h with ⟨_, rfl⟩ | ⟨c, k, _, _, rfl⟩ | ⟨c, e, _, _, rfl⟩
  · exact ⟨rfl, rfl⟩
  · exact ⟨rfl, rfl⟩
  · rw [State.finishExecute_eq]
    exact ⟨rfl, rfl⟩

/-- In a running machine's tick only Writeback and Memory write `LW` and the memory (R80, R110). -/
theorem step_lw_dmem {s t : State} (hs : s.status = .running) (h : step s = .next t) :
    ∃ u v, wbPhase s = .next u ∧ memPhase u = .next v ∧ t.lw = v.lw ∧ t.dmem = v.dmem := by
  rcases step_cases h with ⟨hns, _⟩ | ⟨u, v, w, _, hwb, hmem, hex, hend⟩
  · exact (hns hs).elim
  · obtain ⟨hlw, hdmem⟩ := exPhase_lw_dmem hex
    refine ⟨u, v, hwb, hmem, ?_⟩
    rcases hend with ⟨_, rfl⟩ | ⟨_, f, hfetch, rfl⟩
    · exact ⟨hlw, hdmem⟩
    · rw [fetchPhase_fields hfetch, decodePhase_fields]
      exact ⟨hlw, hdmem⟩

/-- Settles O28: Writeback writes the store's value before Memory reads the word for the load, and what those two
phases leave in `LW` and in memory stands to the end of the tick. -/
theorem loadSeesTheStoreOfTheSameTick : Obligations.LoadSeesTheStoreOfTheSameTick := by
  intro s t st ld hs hwf hst hstore hld hload haddr ht
  obtain ⟨u, v, hwb, hmem, hlw, hdmem⟩ := step_lw_dmem hs ht
  have hstored : u.word st.addrField = st.resultField := by
    rw [State.word, wbPhase_dmem_of_storeClass hst hstore hwb, Memory.read_write hwf, if_pos rfl]
  have hlm : u.lm.content = some ld := by
    obtain ⟨_, _, _, _, _, _, _, _, _, hlm, _, _, _⟩ := wbPhase_fields hwb
    rw [hlm, hld]
  have hkept : v.dmem = u.dmem := by
    obtain ⟨hframe, _, _⟩ := memPhase_fields hmem
    rw [hframe]
  constructor
  · rw [hlw, memPhase_lw_of_loadClass hlm hload hmem, haddr, hstored]
  · rw [State.word, hdmem, hkept]
    exact hstored

end Sys2Proof.Machine

/-! ## Encoding (R60 to R69)

A record is packed into a word and read back field by field, so `decodeRecord` answers `r` for exactly one word, the
packing of `r` (`decodeRecord_eq_ok`). The instruction of a record keeps the fields the opcode's format uses: its own
record is the given one with the unused fields 0 (`Record.instr_record`). The statements of this family are these two
facts, read in either direction. -/

namespace Sys2Proof.Laws.CanonicalRecord

theorem every : ∀ i : Instr, Statement i
  | .nop => nop
  | .add .. => add ..
  | .sub .. => sub ..
  | .and .. => and ..
  | .or .. => or ..
  | .xor .. => xor ..
  | .addl .. => addl ..
  | .subl .. => subl ..
  | .mul .. => mul ..
  | .cmp .. => cmp ..
  | .movc .. => movc ..
  | .div .. => div ..
  | .bz .. => bz ..
  | .bnz .. => bnz ..
  | .load .. => load ..
  | .store .. => store ..
  | .ldr .. => ldr ..
  | .str .. => str ..
  | .halt => halt

end Sys2Proof.Laws.CanonicalRecord

namespace Sys2Proof

/-! ### Opcode numbers (R66) -/

theorem Opcode.ofCode_eq_some {c : BitVec 8} {op : Opcode} : Opcode.ofCode c = some op ↔ op.code = c := by
  constructor
  · unfold Opcode.ofCode
    split <;> rintro ⟨⟩
    all_goals
      rename_i hc
      exact BitVec.eq_of_toNat_eq hc.symm
  · rintro rfl
    cases op <;> rfl

/-- The reserved numbers are those above `HALT`'s (R69). -/
theorem Opcode.ofCode_eq_none {c : BitVec 8} : Opcode.ofCode c = none ↔ 0x12 < c.toNat := by
  unfold Opcode.ofCode
  split
  case h_20 =>
    simp only [imp_false, true_iff] at *
    omega
  all_goals simp [*]

/-! ### Packing (R61) -/

/-- Every field of a packed record is read back as it was, and the reserved byte as 0. -/
theorem fields_word (r : Record) :
    opField r.word = r.op.code ∧ rdField r.word = r.rd ∧ rs1Field r.word = r.rs1 ∧ rs2Field r.word = r.rs2 ∧
      rs3Field r.word = r.rs3 ∧ zeroField r.word = 0#8 ∧ immField r.word = r.imm := by
  simp (disch := decide) only [opField, rdField, rs1Field, rs2Field, rs3Field, zeroField, immField, Record.word,
    BitVec.extractLsb'_append_eq_of_le, Nat.reduceSub, BitVec.extractLsb'_append_eq_right, BitVec.extractLsb'_eq_self,
    and_self]

/-- The seven fields are adjacent and cover the word. -/
theorem fields_append (w : RecordWord) :
    opField w ++ rdField w ++ rs1Field w ++ rs2Field w ++ rs3Field w ++ zeroField w ++ immField w = w := by
  unfold opField rdField rs1Field rs2Field rs3Field zeroField immField
  iterate 6 rw [BitVec.extractLsb'_append_extractLsb'_eq_extractLsb' (by rfl)]
  exact BitVec.extractLsb'_eq_self

/-! ### The decoder (R69) -/

/-- The decoder answers a record for one word only, its packing: no bit of a legal word is dropped. -/
theorem decodeRecord_eq_ok {w : RecordWord} {r : Record} : decodeRecord w = .ok r ↔ r.word = w := by
  constructor
  · intro h
    unfold decodeRecord at h
    split at h
    · cases h
    · next op hop =>
      split at h
      · next hzero =>
        cases h
        simp only [Record.word, Opcode.ofCode_eq_some.1 hop, ← hzero]
        exact fields_append w
      · cases h
  · rintro rfl
    have hop : Opcode.ofCode r.op.code = some r.op := Opcode.ofCode_eq_some.2 rfl
    simp [decodeRecord, fields_word, hop]

theorem decode_of_decodeRecord {w : RecordWord} {r : Record} (h : decodeRecord w = .ok r) : decode w = .ok r.instr := by
  simp only [decode, h]

theorem decode_of_reservedOpcode {w : RecordWord} (h : 0x12 < (opField w).toNat) :
    decode w = .error (.reservedOpcode (opField w)) := by
  simp only [decode, decodeRecord, Opcode.ofCode_eq_none.2 h]

theorem decode_of_reservedByte {w : RecordWord} (hop : (opField w).toNat ≤ 0x12) (hzero : zeroField w ≠ 0#8) :
    decode w = .error (.reservedByte (zeroField w)) := by
  cases hcode : Opcode.ofCode (opField w) with
  | none => exact absurd (Opcode.ofCode_eq_none.1 hcode) (by omega)
  | some op => simp only [decode, decodeRecord, hcode, if_neg hzero]

theorem exists_decode_of_legal {w : RecordWord} (hop : (opField w).toNat ≤ 0x12) (hzero : zeroField w = 0#8) :
    ∃ i, decode w = .ok i := by
  cases hcode : Opcode.ofCode (opField w) with
  | none => exact absurd (Opcode.ofCode_eq_none.1 hcode) (by omega)
  | some op => exact ⟨_, decode_of_decodeRecord (by rw [decodeRecord, hcode]; exact if_pos hzero)⟩

/-- Each of the two refusals excludes an answer, so a decoded word is legal. -/
theorem exists_decode_iff {w : RecordWord} :
    (∃ i, decode w = .ok i) ↔ (opField w).toNat ≤ 0x12 ∧ zeroField w = 0#8 := by
  refine ⟨fun ⟨i, hi⟩ => ?_, fun ⟨hop, hzero⟩ => exists_decode_of_legal hop hzero⟩
  have hop : (opField w).toNat ≤ 0x12 := by
    by_contra hgt
    cases hi.symm.trans (decode_of_reservedOpcode (not_le.1 hgt))
  refine ⟨hop, ?_⟩
  by_contra hzero
  cases hi.symm.trans (decode_of_reservedByte hop hzero)

theorem legalWord_iff {w : RecordWord} : legalWord w = true ↔ (opField w).toNat ≤ 0x12 ∧ zeroField w = 0#8 := by
  simp only [legalWord, opcodeLegal, reservedByteZero, opField, zeroField, Bool.and_eq_true, decide_eq_true_eq,
    beq_iff_eq]

/-! ### Used and unused fields (R62, R65) -/

/-- The record with every field its format does not use set to 0. -/
def Record.clearUnused (r : Record) : Record :=
  { op := r.op
    rd := if r.op.format.uses.rd then r.rd else 0#4
    rs1 := if r.op.format.uses.rs1 then r.rs1 else 0#4
    rs2 := if r.op.format.uses.rs2 then r.rs2 else 0#4
    rs3 := if r.op.format.uses.rs3 then r.rs3 else 0#4
    imm := if r.op.format.uses.imm then r.imm else 0#32 }

/-- An instruction holds its opcode and the used fields of a record, and nothing of the others. -/
theorem Record.instr_record (r : Record) : r.instr.record = r.clearUnused := by
  obtain ⟨op, rd, rs1, rs2, rs3, imm⟩ := r
  cases op <;> rfl

theorem Instr.record_instr (i : Instr) : i.record.instr = i := (Laws.CanonicalRecord.every i).2

theorem Record.clearUnused_instr (r : Record) : r.clearUnused.instr = r.instr := by
  rw [← r.instr_record, Instr.record_instr]

/-- A canonical record has nothing to clear. -/
theorem Record.clearUnused_of_canonical {r : Record} (h : r.canonical = true) : r.clearUnused = r := by
  simp only [Record.canonical, Bool.and_eq_true, Bool.or_eq_true, beq_iff_eq] at h
  obtain ⟨⟨⟨⟨hrd, hrs1⟩, hrs2⟩, hrs3⟩, himm⟩ := h
  have keep {n : Nat} {used : Bool} {x : BitVec n} (hx : used = true ∨ x = 0#n) : (if used then x else 0#n) = x := by
    rcases hx with rfl | rfl
    · exact if_pos rfl
    · exact ite_self _
  simp only [Record.clearUnused, keep hrd, keep hrs1, keep hrs2, keep hrs3, keep himm]

/-! ### The statements -/

theorem decode_encode (i : Instr) : decode (encode i) = .ok i := by
  rw [encode, decode_of_decodeRecord (decodeRecord_eq_ok.2 rfl), Instr.record_instr]

theorem decode_of_encode_eq {i : Instr} {w : RecordWord} (h : encode i = w) : decode w = .ok i :=
  h ▸ decode_encode i

/-- All 64 bits of a word pass through the opcode table's numbering. -/
theorem tableWord_toNat (w : RecordWord) : tableWord 64 w.toNat = w := by
  rw [tableWord, Nat.mod_eq_of_lt w.isLt, BitVec.ofNat_toNat, BitVec.setWidth_eq]

/-- Settles O1: the encoder packs the instruction's record, and the decoder reads the record back from its packing. -/
theorem decodeOfEncodeIsTheInstruction : Obligations.DecodeOfEncodeIsTheInstruction := by
  intro i
  refine ⟨decode_encode i, ?_⟩
  simp only [decodeTableWord, tableWord_toNat, decode_encode]

/-- Settles O2: a decoded word is its record's packing, and a canonical record is the record of its instruction. -/
theorem encodeOfDecodedWordIsTheWord : Obligations.EncodeOfDecodedWordIsTheWord := by
  intro w r h
  have hword : r.word = w := decodeRecord_eq_ok.1 h
  refine ⟨hword, fun hcanonical => ?_⟩
  calc encode r.instr = r.instr.record.word := rfl
    _ = r.word := by rw [r.instr_record, Record.clearUnused_of_canonical hcanonical]
    _ = w := hword

/-- Settles O3: one lemma about the decoder per clause; a legal word is by definition one that meets R69's two
conditions. -/
theorem decoderAcceptsExactlyLegalWords : Obligations.DecoderAcceptsExactlyLegalWords :=
  fun _ => ⟨exists_decode_iff, decode_of_reservedOpcode, decode_of_reservedByte,
    legalWord_iff.trans exists_decode_iff.symm⟩

/-- Settles O4: the six legal words are the encodings of their instructions, and the opcode of the last is reserved. -/
theorem writtenOutWordsDecode : Obligations.WrittenOutWordsDecode :=
  ⟨decode_of_encode_eq (by decide), decode_of_encode_eq (by decide), decode_of_encode_eq (by decide),
    decode_of_encode_eq (by decide), decode_of_encode_eq (by decide), decode_of_encode_eq (by decide),
    decode_of_reservedOpcode (by decide)⟩

/-- Settles O5: the two records are equal once their unused fields are cleared, which no instruction sees. -/
theorem unusedRecordFieldsAreIgnored : Obligations.UnusedRecordFieldsAreIgnored := by
  intro r r' hop hrd hrs1 hrs2 hrs3 himm
  have hclear : r.clearUnused = r'.clearUnused := by
    simp only [Record.clearUnused, ← hop, Record.mk.injEq, true_and]
    exact ⟨ite_congr rfl hrd fun _ => rfl, ite_congr rfl hrs1 fun _ => rfl, ite_congr rfl hrs2 fun _ => rfl,
      ite_congr rfl hrs3 fun _ => rfl, ite_congr rfl himm fun _ => rfl⟩
  calc r.instr = r.clearUnused.instr := r.clearUnused_instr.symm
    _ = r'.clearUnused.instr := by rw [hclear]
    _ = r'.instr := r'.clearUnused_instr

end Sys2Proof

/-! ## The phases, one equation per case (R80 to R106) -/

namespace Sys2Proof.Machine

theorem wbPhase_of_empty {s : State} (h : s.lw.content = none) : wbPhase s = .next s := by
  simp only [wbPhase, h]

theorem wbPhase_of_some {s : State} {c : InstructionContext} (h : s.lw.content = some c) :
    wbPhase s = andThen ((s.commitRegister c).countRetired.commitStore c)
      fun u => .next (u.signalHalt c).emptyWriteback := by
  simp only [wbPhase, h]

theorem State.reg_commitRegister (s : State) (c : InstructionContext) (r : Reg) :
    (s.commitRegister c).reg r = if destination c.instr = some r then c.resultField else s.reg r := by
  unfold State.commitRegister
  cases destination c.instr with
  | none => simp
  | some rd => simp [State.reg_writeReg]

theorem memPhase_of_empty {s : State} (h : s.lm.content = none) : memPhase s = .next s := by
  simp only [memPhase, h]

theorem memPhase_of_load {s : State} {c : InstructionContext} (h : s.lm.content = some c)
    (hl : loadClass c.instr = true) (ha : c.addrField < s.params.dmemWords) :
    memPhase s = .next (s.toWriteback { c with result := some (s.word c.addrField) }) := by
  simp [memPhase, h, hl, State.hasWord, ha]

theorem memPhase_of_not_load {s : State} {c : InstructionContext} (h : s.lm.content = some c)
    (hl : loadClass c.instr = false) : memPhase s = .next (s.toWriteback c) := by
  simp [memPhase, h, hl]

theorem exPhase_of_empty {s : State} (h : s.lx.content = none) : exPhase s = .next s.clearRedirect := by
  simp only [exPhase, h]

theorem exPhase_of_some {s : State} {c : InstructionContext} (h : s.lx.content = some c) :
    exPhase s = exec c.instr s.clearRedirect := by
  simp only [exPhase, h]

theorem exec_of_fault {i : Instr} {s : State} {c : InstructionContext} {k : FaultKind} (h : s.lx.content = some c)
    (hk : executeAnswer s.params.dmemWords s.z i c = .fault k) : exec i s = .next (s.enterFault k c) := by
  simp only [exec_eq_execute, State.execute, h, hk]

theorem exec_of_ok {i : Instr} {s : State} {c : InstructionContext} {e : Executed} (h : s.lx.content = some c)
    (he : executeAnswer s.params.dmemWords s.z i c = .ok e) : exec i s = .next (s.finishExecute c e) := by
  simp only [exec_eq_execute, State.execute, h, he]

theorem decodePhase_of_empty {s : State} (h : s.ld.content = none) : decodePhase s = s := by
  simp only [decodePhase, h]

theorem decodePhase_of_hazard {s : State} {c : InstructionContext} (h : s.ld.content = some c)
    (hz : s.hazard c.instr = true) : decodePhase s = s.setStalls true := by
  simp [decodePhase, h, hz]

theorem decodePhase_of_issue {s : State} {c : InstructionContext} (h : s.ld.content = some c)
    (hz : s.hazard c.instr = false) : decodePhase s = (s.markDestination c.instr).issue (s.readOperands c) := by
  simp [decodePhase, h, hz]

theorem fetchPhase_of_redir {s : State} (h : s.redir = true) : fetchPhase s = .next s := by simp [fetchPhase, h]

theorem fetchPhase_of_shut {s : State} (h : s.fen = false) : fetchPhase s = .next s := by simp [fetchPhase, h]

theorem fetchPhase_of_held {s : State} (h : s.ld.content.isSome = true) : fetchPhase s = .next s := by
  simp [fetchPhase, h]

theorem fetchPhase_of_open {s : State} (hr : s.redir = false) (hf : s.fen = true) (hd : s.ld.content = none) :
    fetchPhase s = s.fetchRecord := by
  simp [fetchPhase, hr, hf, hd]

theorem State.fetchRecord_of_none {s : State} (h : s.recordAt s.pc = none) : s.fetchRecord = .next s.shutFetch := by
  simp [fetchRecord, h]

theorem State.fetchRecord_of_some {s : State} {w : RecordWord} {r : Record} (h : s.recordAt s.pc = some w)
    (hr : decodeRecord w = .ok r) : s.fetchRecord = .next (s.fetched r) := by
  simp [fetchRecord, h, hr]

theorem tick_of_running {s : State} (h : s.status = .running) :
    tick s = andThen (andThen (andThen (wbPhase s) memPhase) exPhase) afterExecute := if_pos h

theorem afterExecute_of_faulted {s : State} (h : s.status = .faulted) : afterExecute s = .next s := if_pos h

theorem afterExecute_of_not_faulted {s : State} (h : s.status ≠ .faulted) :
    afterExecute s = andThen (fetchPhase (decodePhase s)) fun f => .next f.endTick := if_neg h

/-! ### Execute by its signals (R90, R91, R92)

`executeSignals` is what the Execute stage answers, whatever the phases have done to the other latches. -/

/-- What the Execute phase leaves when the stage raises no fault. -/
def State.completeExecute (s : State) (e : Executed) : State :=
  { s with
    z := e.newZ.getD s.z
    pc := e.taken.getD s.pc
    redir := e.taken.isSome
    fen := e.taken.isSome || s.fen
    ld := if e.taken.isSome then Latch.empty else s.ld
    lf := if e.taken.isSome then { s.lf with stall := false } else s.lf
    lm := { s.lm with content := nextLM s e }
    lx := { s.lx with content := none } }

theorem Latch.with_content {l : Latch} {o : Option InstructionContext} (h : l.content = o) :
    { l with content := o } = l := by
  cases l; cases h; rfl

theorem produced_eq_orElse (new old : Option Word) : produced new old = (new <|> old) := by cases new <;> rfl

theorem State.finishExecute_eq_completeExecute {s : State} {c : InstructionContext} (hc : s.lx.content = some c)
    (e : Executed) : s.clearRedirect.finishExecute c e = s.completeExecute e := by
  rw [State.finishExecute_eq]
  simp [State.completeExecute, nextLM, hc, produced_eq_orElse, State.clearRedirect]

theorem State.clearRedirect_eq_completeExecute {s : State} (hx : s.lx.content = none) (hm : s.lm.content = none) :
    s.clearRedirect = s.completeExecute {} := by
  simp [State.completeExecute, nextLM, hx, Latch.with_content hx, Latch.with_content hm, State.clearRedirect]

theorem executeSignals_of_some {s : State} {c : InstructionContext} (h : s.lx.content = some c) :
    executeSignals s = executeAnswer s.params.dmemWords s.z c.instr c := by
  simp only [executeSignals, h]

theorem executeSignals_of_empty {s : State} (h : s.lx.content = none) : executeSignals s = .ok {} := by
  simp only [executeSignals, h]

theorem exPhase_of_fault {s : State} {k : FaultKind} (hk : executeSignals s = .fault k) :
    ∃ c, s.lx.content = some c ∧ exPhase s = .next (s.clearRedirect.enterFault k c) := by
  cases hc : s.lx.content with
  | none =>
    rw [executeSignals_of_empty hc] at hk
    cases hk
  | some c =>
    rw [executeSignals_of_some hc] at hk
    exact ⟨c, rfl, by rw [exPhase_of_some hc, exec_of_fault (s := s.clearRedirect) hc hk]⟩

theorem exPhase_of_ok {s : State} {e : Executed} (hm : s.lm.content = none) (he : executeSignals s = .ok e) :
    exPhase s = .next (s.completeExecute e) := by
  cases hc : s.lx.content with
  | none =>
    rw [executeSignals_of_empty hc] at he
    cases he
    rw [exPhase_of_empty hc, State.clearRedirect_eq_completeExecute hc hm]
  | some c =>
    rw [executeSignals_of_some hc] at he
    rw [exPhase_of_some hc, exec_of_ok (s := s.clearRedirect) hc he, State.finishExecute_eq_completeExecute hc]

end Sys2Proof.Machine

/-! ## What each phase does (R82, R83, R88, R90, R92 to R98, R101 to R105) -/

namespace Sys2Proof.Machine

/-- Settles O13: `tick` runs no phase outside `Running`, and with `rst` low the edge is the tick. -/
theorem stoppedMachineChangesNothing : Obligations.StoppedMachineChangesNothing := by
  intro s hs
  have hstep : step s = .next s := if_neg hs
  refine ⟨hstep, fun rst base t hedge hne => ?_⟩
  cases rst with
  | true => rfl
  | false =>
    have htick : clockEdge false base s = .ok (.next s) := congrArg Except.ok hstep
    cases htick.symm.trans hedge
    exact (hne rfl).elim

/-- Settles O19: one equation of the Memory phase per clause. -/
theorem memoryPhaseLoadsOrPassesOn : Obligations.MemoryPhaseLoadsOrPassesOn :=
  ⟨fun _ h => memPhase_of_empty h,
    fun _ _ hc => ⟨fun hl ha => memPhase_of_load hc hl ha, fun hl => memPhase_of_not_load hc hl⟩⟩

theorem State.pendingOperand_eq_true {s : State} {o : Option Reg} :
    s.pendingOperand o = true ↔ ∃ r, s.pending r = true ∧ o = some r := by
  cases o <;> simp [State.pendingOperand]

/-- Settles O20: the hazard check is the disjunction over the four operand fields. -/
theorem hazardIsAPendingOperand : Obligations.HazardIsAPendingOperand := by
  intro s i
  simp only [State.hazard, Bool.or_eq_true, State.pendingOperand_eq_true, and_or_left, exists_or, or_assoc]

theorem State.readOperand_of_some {s : State} {o : Option Reg} {r : Reg} (h : o = some r) (old : Option Word) :
    s.readOperand o old = some (s.reg r) := by
  subst h
  rfl

theorem State.readOperand_of_none {s : State} {o : Option Reg} (h : o = none) (old : Option Word) :
    s.readOperand o old = old := by
  subst h
  rfl

/-- Settles O21: the issued context is the one with the operands read (R96). -/
theorem decodeStallsOrIssues : Obligations.DecodeStallsOrIssues := by
  refine ⟨fun s h => decodePhase_of_empty h,
    fun s c hc => ⟨fun hz => decodePhase_of_hazard hc hz, fun hz => ?_⟩⟩
  have hissue := decodePhase_of_issue hc hz
  refine ⟨s.readOperands c, fun r hr => State.readOperand_of_some hr _, fun hr => State.readOperand_of_none hr _,
    fun r hr => State.readOperand_of_some hr _, fun hr => State.readOperand_of_none hr _,
    fun r hr => State.readOperand_of_some hr _, fun hr => State.readOperand_of_none hr _, rfl, rfl, rfl, rfl, ?_, ?_⟩
  · intro rd hd
    rw [hissue, State.markDestination, hd]
    rfl
  · intro hd
    rw [hissue, State.markDestination, hd]
    rfl

/-- Settles O22: one equation of the Fetch phase per test; the fourth finds a record or none. -/
theorem fetchFollowsItsFourTests : Obligations.FetchFollowsItsFourTests := by
  refine ⟨fun s h => fetchPhase_of_redir h, fun s _ h => fetchPhase_of_shut h, fun s _ _ h => fetchPhase_of_held h,
    fun s hr hf hd hw => ?_, fun s w r hr hf hd hw hdec => ?_⟩
  · rw [fetchPhase_of_open hr hf hd, State.fetchRecord_of_none hw]
    rfl
  · have hfen : (s.fetched r).fen = !(r.op = .halt) := by
      by_cases hh : r.op = .halt <;> simp [hh, hf]
    rw [fetchPhase_of_open hr hf hd, State.fetchRecord_of_some hw hdec, ← hfen]
    rfl

/-- Settles O44: both look at `LX` first. -/
theorem emptyExecuteLatchDoesNothing : Obligations.EmptyExecuteLatchDoesNothing := by
  intro i s h
  constructor
  · simp only [exec_eq_execute, State.execute, h]
  · exact exPhase_of_empty h

/-! ### Branches -/

theorem finishExecute_of_taken (s : State) (c : InstructionContext) (target : Word) :
    s.finishExecute c { taken := some target } = (s.redirect target).toMemory c := rfl

theorem finishExecute_of_nothing (s : State) (c : InstructionContext) : s.finishExecute c {} = s.toMemory c := rfl

/-- A branch whose unit decides by `taken` redirects or passes on (R171, R172). -/
theorem branchExecutes_of_answer {i : Instr} {imm : Word} {taken : State → Bool}
    (h : ∀ (s : State) (c : InstructionContext),
      executeAnswer s.params.dmemWords s.z i c = branchAnswer (taken s) imm c) :
    Statements.BranchExecutes i imm taken := by
  intro s c hc
  constructor
  · intro ht
    have hans := h s c
    rw [ht] at hans
    rw [exec_of_ok hc hans]
    exact congrArg Host.Outcome.next (finishExecute_of_taken s c _)
  · intro ht
    have hans := h s c
    rw [ht] at hans
    rw [exec_of_ok hc hans]
    exact congrArg Host.Outcome.next (finishExecute_of_nothing s c)

/-- Settles O42: BZ decides by `Z`, BNZ by its negation. -/
theorem branchesExecute : Obligations.BranchesExecute :=
  fun _ => ⟨branchExecutes_of_answer fun _ _ => rfl, branchExecutes_of_answer fun _ _ => rfl⟩

/-! ### The step around the decoded instruction (R80, R90, R110) -/

theorem step_of_lx {s u v : State} {c : InstructionContext} (hs : s.status = .running) (hu : wbPhase s = .next u)
    (hv : memPhase u = .next v) (hc : v.lx.content = some c) :
    step s = andThen (exec c.instr v.clearRedirect) afterExecute := by
  rw [step, tick_of_running hs, hu, andThen_next, hv, andThen_next, exPhase_of_some hc]

/-- With `LM` and `LW` empty the step is the Execute phase's instruction and what follows it. -/
theorem step_of_lx_alone {s : State} {c : InstructionContext} (hs : s.status = .running) (hr : s.redir = false)
    (hc : s.lx.content = some c) (hm : s.lm.content = none) (hw : s.lw.content = none) :
    step s = andThen (exec c.instr s) afterExecute := by
  have hclear : s.clearRedirect = s := by simp [State.clearRedirect, ← hr]
  rw [step_of_lx hs (wbPhase_of_empty hw) (memPhase_of_empty hm) hc, hclear]

/-- With nothing issued the step is Decode, Fetch and the end of tick. -/
theorem step_of_backEmpty {s : State} (hs : s.status = .running) (hr : s.redir = false) (hb : s.backEmpty) :
    step s = andThen (fetchPhase (decodePhase s)) fun f => .next f.endTick := by
  obtain ⟨hx, hm, hw⟩ := hb
  have hclear : s.clearRedirect = s := by simp [State.clearRedirect, ← hr]
  have hne : s.status ≠ .faulted := by simp [hs]
  rw [step, tick_of_running hs, wbPhase_of_empty hw, andThen_next, memPhase_of_empty hm, andThen_next,
    exPhase_of_empty hx, andThen_next, hclear, afterExecute_of_not_faulted hne]

/-! ### Runs -/

theorem runsTo_succ {k : Nat} {s u : State} : RunsTo (k + 1) s u ↔ ∃ t, step s = .next t ∧ RunsTo k t u := by
  simp only [RunsTo, Host.Core.run, Sys2Proof.core]
  cases step s <;> simp

theorem runsTo_of_step {s t : State} (h : step s = .next t) : RunsTo 1 s t := runsTo_succ.2 ⟨t, h, rfl⟩

theorem runsTo_trans {j k : Nat} {s t u : State} (hst : RunsTo j s t) (htu : RunsTo k t u) : RunsTo (j + k) s u := by
  induction j generalizing s with
  | zero =>
    cases hst
    rwa [Nat.zero_add]
  | succ j ih =>
    obtain ⟨v, hv, hvt⟩ := runsTo_succ.1 hst
    rw [Nat.succ_add]
    exact runsTo_succ.2 ⟨v, hv, ih hvt⟩

theorem exists_runsTo_trans {j : Nat} {s t : State} {P : State → Prop} (h : RunsTo j s t)
    (ht : ∃ k u, RunsTo k t u ∧ P u) : ∃ k u, RunsTo k s u ∧ P u := by
  obtain ⟨k, u, hu, hp⟩ := ht
  exact ⟨j + k, u, runsTo_trans h hu, hp⟩

/-! ### A lone record (R228) -/

theorem portRecord_eq_some {s : State} {r : Record} :
    portRecord s = some r ↔ ∃ w, s.recordAt s.pc = some w ∧ decodeRecord w = .ok r := by
  unfold portRecord
  cases s.recordAt s.pc with
  | none => simp
  | some w => cases hd : decodeRecord w <;> simp [hd]

theorem State.hazard_of_nothing_pending {s : State} (h : ∀ r, s.pending r = false) (i : Instr) :
    s.hazard i = false := by
  have hop (o : Option Reg) : s.pendingOperand o = false := by
    cases o with
    | none => rfl
    | some r => exact h r
  simp only [State.hazard, hop, Bool.or_false]

/-- The first tick fetches the lone record (R228). -/
theorem step_fetches_alone {s : State} {r : Record} (h : Statements.FetchedAlone s r) :
    step s = .next (s.fetched r).endTick := by
  obtain ⟨hs, hf, hr, _, hld, hlx, hlm, hlw, _, hport, _⟩ := h
  obtain ⟨w, hw, hdec⟩ := portRecord_eq_some.1 hport
  have hd : s.ld.content = none := by rw [hld]; rfl
  have hback : s.backEmpty := ⟨congrArg _ hlx, congrArg _ hlm, congrArg _ hlw⟩
  rw [step_of_backEmpty hs hr hback, decodePhase_of_empty hd, fetchPhase_of_open hr hf hd, State.fetchRecord_of_some hw hdec, andThen_next]

/-- Where there is no record fetch is shut, or was (R101, R105). -/
theorem fetchPhase_of_no_record {s : State} (hr : s.redir = false) (hd : s.ld.content = none)
    (hw : s.recordAt s.pc = none) : fetchPhase s = .next s.shutFetch := by
  cases hf : s.fen with
  | true => rw [fetchPhase_of_open hr hf hd, State.fetchRecord_of_none hw]
  | false =>
    rw [fetchPhase_of_shut hf]
    simp [State.shutFetch, ← hf]

/-- The lone record in `LX`, two ticks on. -/
def State.aloneInExecute (s : State) (r : Record) : State :=
  (((s.fetched r).endTick.markDestination r.instr).issue (s.readOperands (fetchedContext s.pc r))).shutFetch.endTick

theorem State.aloneInExecute_fields (s : State) (r : Record) :
    (s.aloneInExecute r).status = s.status ∧ (s.aloneInExecute r).redir = false ∧
      (s.aloneInExecute r).lx.content = some (s.readOperands (fetchedContext s.pc r)) ∧
      (s.aloneInExecute r).ld.content = none ∧ (s.aloneInExecute r).lm = s.lm ∧ (s.aloneInExecute r).lw = s.lw ∧
      (s.aloneInExecute r).z = s.z ∧ (s.aloneInExecute r).params = s.params := by
  rw [State.aloneInExecute, State.markDestination_fields]
  exact ⟨rfl, rfl, rfl, rfl, rfl, rfl, rfl, rfl⟩

/-- The second tick issues it and finds no record after it. -/
theorem step_issues_alone {s : State} {r : Record} (h : Statements.FetchedAlone s r) :
    step (s.fetched r).endTick = .next (s.aloneInExecute r) := by
  obtain ⟨hs, _, _, _, _, hlx, hlm, hlw, hpend, _, hnone⟩ := h
  have hld : (s.fetched r).endTick.ld.content = some (fetchedContext s.pc r) := rfl
  have hback : (s.fetched r).endTick.backEmpty := ⟨congrArg _ hlx, congrArg _ hlm, congrArg _ hlw⟩
  have hread : (s.fetched r).endTick.readOperands (fetchedContext s.pc r) =
      s.readOperands (fetchedContext s.pc r) := rfl
  have hinstr : (fetchedContext s.pc r).instr = r.instr := rfl
  rw [step_of_backEmpty (s := (s.fetched r).endTick) hs rfl hback,
    decodePhase_of_issue hld (State.hazard_of_nothing_pending hpend _), hread, hinstr, fetchPhase_of_no_record,
    andThen_next]
  · rfl
  · rw [State.markDestination_fields]
    rfl
  · rfl
  · rw [State.markDestination_fields]
    exact hnone

/-- Settles O14: two ticks bring the lone record to `LX`; the third is `exec` of it. -/
theorem stepRunsTheDecodedInstruction : Obligations.StepRunsTheDecodedInstruction := by
  refine ⟨fun s u v c hs hu hv hc => step_of_lx hs hu hv hc, fun s hs => afterExecute_of_faulted hs,
    fun s f hs hf => ?_, fun s r h => ?_⟩
  · rw [afterExecute_of_not_faulted hs, hf]
    rfl
  · have htwo := runsTo_trans (runsTo_of_step (step_fetches_alone h)) (runsTo_of_step (step_issues_alone h))
    obtain ⟨hs, _, _, _, _, _, hlm, hlw, _, _, _⟩ := h
    obtain ⟨hstatus, hredir, hx, hd, hm, hw, hz, hparams⟩ := s.aloneInExecute_fields r
    refine ⟨_, htwo, hx, hd, hz, hparams, step_of_lx_alone (hstatus.trans hs) hredir hx ?_ ?_⟩
    · rw [hm, hlm]
      rfl
    · rw [hw, hlw]
      rfl

/-! ### A placed record -/

/-- Settles O54: the placement leaves the record in `LX` of a running machine with `LM` and `LW` empty. -/
theorem placedRecordRunsAtTheNextStep : Obligations.PlacedRecordRunsAtTheNextStep := by
  intro s nbits w r hr
  have hplace := s.placeForFetch_fields (tableWord nbits w)
  have hat := s.recordAt_placeForFetch (tableWord nbits w)
  rw [State.withFetchWord, State.fillFront_placeForFetch s hr, State.markDestination_fields]
  rw [hplace] at hat ⊢
  refine ⟨hat, rfl, rfl, rfl, rfl, rfl, rfl, rfl, rfl, rfl, rfl, ?_⟩
  exact step_of_lx_alone (c := s.readOperands (fetchedContext s.pc r)) rfl rfl rfl rfl rfl

end Sys2Proof.Machine

/-! ## The tick as one edge (R107)

Under the invariant every phase of the tick is computed from the state at the tick's start. There is one description per
phase (`State.afterWB`, `afterMEM`, `afterEX`, `afterD`), made of the signals of the clocked implementation, and one
lemma that the phase answers it; the last phase gives `normalEdge`. -/

namespace Sys2Proof.Machine

/-! ### Legal records -/

theorem exists_decodeRecord_of_legalWord {w : RecordWord} (h : legalWord w = true) : ∃ r, decodeRecord w = .ok r := by
  obtain ⟨i, hi⟩ := exists_decode_iff.2 (legalWord_iff.1 h)
  cases hr : decodeRecord w with
  | ok r => exact ⟨r, rfl⟩
  | error e => simp [decode, hr] at hi

/-- Every record of a legal table decodes (R69, R72). -/
theorem State.Inv.exists_decodeRecord {s : State} (h : s.Inv) {a : Word} {w : RecordWord}
    (hw : s.recordAt a = some w) : ∃ r, decodeRecord w = .ok r := by
  rw [State.recordAt, recordIn_eq_bind, Option.bind_eq_some_iff] at hw
  obtain ⟨k, _, hk⟩ := hw
  exact exists_decodeRecord_of_legalWord (List.all_eq_true.1 h.tableLegal w (List.mem_of_getElem? hk))

/-- The context that Decode hands to `LX` (R96, R107 path (a)). -/
def InstructionContext.withOperands (s : State) (c : InstructionContext) : InstructionContext :=
  { c with
    v1 := operandThrough s (source1 c.instr) c.v1
    v2 := operandThrough s (source2 c.instr) c.v2
    v3 := operandThrough s (source3 c.instr) c.v3 }

namespace State

/-! ### The state after each phase -/

/-- What Writeback and Memory leave (R83, R88), from the write ports of the clocked implementation. -/
def afterMEM (s : State) : State :=
  { backEdge s with
    status := if haltRetires s then .halted else s.status
    ld := { s.ld with stall := s.ld.stall && (regWritePort s).isNone }
    lf := { s.lf with stall := s.lf.stall && (regWritePort s).isNone } }

/-- What Writeback leaves: `LM` is still as it was. -/
def afterWB (s : State) : State :=
  { s.afterMEM with lw := { s.lw with content := none }, lm := s.lm }

/-- What Execute leaves when it raises no fault (R90, R92). -/
def afterEX (s : State) (e : Executed) : State :=
  { s.afterMEM with
    z := (normalEdge s e).z
    pc := e.taken.getD s.pc
    redir := e.taken.isSome
    fen := e.taken.isSome || s.fen
    ld := if e.taken.isSome then Latch.empty else s.afterMEM.ld
    lf := if e.taken.isSome then { s.lf with stall := false } else s.afterMEM.lf
    lm := { s.lm with content := nextLM s e }
    lx := { s.lx with content := none } }

/-- What Decode leaves (R95 to R98). -/
def afterD (s : State) (e : Executed) : State :=
  { s.afterEX e with
    pend := (normalEdge s e).pend
    lx := (normalEdge s e).lx
    ld := { content := if stallSignal s e then decodeInput s e else none, stall := stallSignal s e }
    lf := { s.lf with stall := stallSignal s e } }

/-! ### Writeback and Memory -/

theorem afterWB_of_empty {s : State} (h : s.lw.content = none) : s.afterWB = s := by
  simp [afterWB, afterMEM, backEdge, haltRetires, regWritePort, memWritePort, h, Latch.with_content h]

theorem commitRegister_eq {s : State} {c : InstructionContext} (hc : s.lw.content = some c) :
    s.commitRegister c = { s with
      x := s.afterWB.x, pend := s.afterWB.pend, ld := s.afterWB.ld, lf := s.afterWB.lf } := by
  have hport : regWritePort s = (destination c.instr).map (·, c.resultField) := by
    simp only [regWritePort, hc]
    cases destination c.instr <;> rfl
  simp only [commitRegister, afterWB, afterMEM, backEdge, hport]
  cases destination c.instr <;> simp [writeReg, setPending, setStalls]

theorem commitStore_eq {s u : State} {c : InstructionContext} (hc : s.lw.content = some c) (hd : u.dmem = s.dmem)
    (h : storeClass c.instr = true → u.hasWord c.addrField = true) :
    u.commitStore c = .next { u with dmem := s.afterWB.dmem } := by
  simp only [commitStore, afterWB, afterMEM, backEdge, memWritePort, hc]
  cases hst : storeClass c.instr with
  | false => simp [← hd]
  | true => simp [h hst, storeWord, hd]

theorem signalHalt_eq {s u : State} {c : InstructionContext} (hc : s.lw.content = some c) (hu : u.status = s.status) :
    u.signalHalt c = { u with status := s.afterWB.status } := by
  simp only [signalHalt, afterWB, afterMEM, haltRetires, hc]
  by_cases hh : c.instr = .halt <;> simp [hh, setHalted, ← hu]

theorem wbPhase_eq {s : State}
    (h : ∀ c ∈ s.lw.content, storeClass c.instr = true → c.addrField < s.params.dmemWords) :
    wbPhase s = .next s.afterWB := by
  cases hw : s.lw.content with
  | none => rw [wbPhase_of_empty hw, afterWB_of_empty hw]
  | some c =>
    have hretired : s.afterWB.retired = s.retired + 1#64 := by
      simp [afterWB, afterMEM, backEdge, hw]
    rw [wbPhase_of_some hw, commitRegister_eq hw, commitStore_eq hw, andThen_next, signalHalt_eq hw, countRetired,
      ← hretired]
    · rfl
    · rfl
    · rfl
    · exact fun hst => decide_eq_true (h c hw hst)

theorem word_afterWB {s : State} (h : Memory.wf s.dmem = true) (a : Nat) :
    s.afterWB.word a = memReadThrough s a := by
  unfold memReadThrough word afterWB afterMEM backEdge
  cases memWritePort s with
  | none => rfl
  | some p => simp only [Memory.read_write h, eq_comm]

theorem memPhase_eq {s : State} (hwf : Memory.wf s.dmem = true)
    (h : ∀ c ∈ s.lm.content, loadClass c.instr = true → c.addrField < s.params.dmemWords) :
    memPhase s.afterWB = .next s.afterMEM := by
  have hpass {d : InstructionContext} (hd : nextLW s = some d) : s.afterWB.toWriteback d = s.afterMEM := by
    simp only [toWriteback, afterWB, afterMEM, backEdge, hd]
  cases hm : s.lm.content with
  | none =>
    have hsame : s.afterWB = s.afterMEM := by
      simp [afterWB, afterMEM, backEdge, nextLW, hm, Latch.with_content hm]
    rw [memPhase_of_empty (s := s.afterWB) hm, hsame]
  | some c =>
    cases hl : loadClass c.instr with
    | false =>
      rw [memPhase_of_not_load (s := s.afterWB) hm hl, hpass]
      simp [nextLW, hm, hl]
    | true =>
      rw [memPhase_of_load (s := s.afterWB) hm hl (h c hm hl), hpass]
      simp [nextLW, hm, hl, word_afterWB hwf]

theorem Inv.wbPhase_eq {s : State} (h : s.Inv) : wbPhase s = .next s.afterWB := by
  refine State.wbPhase_eq fun c hc hst => ?_
  obtain ⟨_, hstore⟩ := h.loaded c hc
  obtain ⟨⟨_, haddr⟩, _⟩ := hstore hst
  exact haddr

theorem Inv.memPhase_eq {s : State} (h : s.Inv) : memPhase s.afterWB = .next s.afterMEM := by
  refine State.memPhase_eq h.dmemCanonical fun c hc hl => ?_
  obtain ⟨_, hload, _⟩ := h.executed c hc
  obtain ⟨_, haddr⟩ := hload hl
  exact haddr

/-! ### Execute -/

theorem completeExecute_afterMEM (s : State) (e : Executed) : s.afterMEM.completeExecute e = s.afterEX e := by
  have hz : e.newZ.getD s.z = (normalEdge s e).z := by
    simp only [normalEdge]
    cases e.newZ <;> rfl
  simp only [afterEX, ← hz]
  rfl

/-! ### Decode -/

/-- Path (a) for the register file: Decode reads what Writeback has written (R107). -/
theorem reg_afterEX (s : State) (e : Executed) (r : Reg) : (s.afterEX e).reg r = readThrough s r := by
  cases hp : regWritePort s with
  | none => simp only [reg, afterEX, afterMEM, backEdge, readThrough, hp]
  | some p => simp only [reg, afterEX, afterMEM, backEdge, readThrough, hp, Vector.getElem_set, BitVec.toNat_inj]

/-- Path (a) for the scoreboard (R107). -/
theorem pending_afterEX (s : State) (e : Executed) (r : Reg) : (s.afterEX e).pending r = pendingThrough s r := by
  cases hp : regWritePort s with
  | none => simp only [pending, afterEX, afterMEM, backEdge, pendingThrough, hp]
  | some p => simp only [pending, afterEX, afterMEM, backEdge, pendingThrough, hp, Vector.getElem_set, BitVec.toNat_inj]

theorem readOperand_afterEX (s : State) (e : Executed) (r : Option Reg) (old : Option Word) :
    (s.afterEX e).readOperand r old = operandThrough s r old := by
  cases r <;> simp only [readOperand, operandThrough, reg_afterEX]

theorem readOperands_afterEX (s : State) (e : Executed) (c : InstructionContext) :
    (s.afterEX e).readOperands c = c.withOperands s := by
  simp only [readOperands, readOperand_afterEX, InstructionContext.withOperands]

theorem hazard_afterEX (s : State) (e : Executed) {c : InstructionContext} (hc : decodeInput s e = some c) :
    (s.afterEX e).hazard c.instr = stallSignal s e := by
  have hop (r : Option Reg) : (s.afterEX e).pendingOperand r = operandPending s r := by
    cases r <;> simp only [pendingOperand, operandPending, pending_afterEX]
  simp only [hazard, stallSignal, hc, hop]

theorem content_ld_afterEX (s : State) (e : Executed) : (s.afterEX e).ld.content = decodeInput s e := by
  simp only [afterEX, decodeInput]
  split <;> rfl

/-- With nothing to decode no stall flag is up: one from before the tick would belong to an instruction in `LD`
(R22). -/
theorem Inv.afterD_eq_afterEX {s : State} {e : Executed} (h : s.Inv) (hd : decodeInput s e = none) :
    s.afterD e = s.afterEX e := by
  have hstall : stallSignal s e = false := by simp only [stallSignal, hd]
  have hissued : issued s e = none := by simp [issued, hd]
  have hflags : e.taken.isSome = false → s.ld.content = none ∧ s.ld.stall = false ∧ s.lf.stall = false := by
    intro ht
    have hld : s.ld.content = none := by simpa [decodeInput, ht] using hd
    have hdown : s.ld.stall = false := Bool.eq_false_iff.2 fun hs => by
      have := h.stallValid hs
      simp [hld] at this
    exact ⟨hld, hdown, h.stallsAgree.trans hdown⟩
  cases ht : e.taken.isSome with
  | true =>
    simp [afterD, afterEX, normalEdge, markedRegister, nextLX, hissued, hstall, ht, Latch.empty, afterMEM]
  | false =>
    obtain ⟨hld, hdown, hdown'⟩ := hflags ht
    simp [afterD, afterEX, normalEdge, markedRegister, nextLX, hissued, hstall, ht, afterMEM, hld, hdown, hdown']

theorem Inv.decodePhase_afterEX {s : State} (h : s.Inv) (e : Executed) : decodePhase (s.afterEX e) = s.afterD e := by
  have hcontent := content_ld_afterEX s e
  cases hd : decodeInput s e with
  | none => rw [decodePhase_of_empty (hcontent.trans hd), h.afterD_eq_afterEX hd]
  | some c =>
    have hz := hazard_afterEX s e hd
    have htaken : e.taken.isSome = false := by
      by_contra ht
      simp [decodeInput, ht] at hd
    cases hst : stallSignal s e with
    | true =>
      rw [decodePhase_of_hazard (hcontent.trans hd) (hz.trans hst)]
      have hissued : issued s e = none := by simp [issued, hst]
      have hld : s.ld.content = some c := by simpa [decodeInput, htaken] using hd
      simp [afterD, afterEX, setStalls, normalEdge, markedRegister, nextLX, hissued, hst, hd, htaken, afterMEM, hld]
    | false =>
      rw [decodePhase_of_issue (hcontent.trans hd) (hz.trans hst)]
      have hissued : issued s e = some c := by simp [issued, hst, hd]
      simp only [readOperands_afterEX, InstructionContext.withOperands, afterD, normalEdge, markedRegister, nextLX,
        hissued, hst, markDestination]
      cases destination c.instr <;> simp [issue, setPending, afterEX, afterMEM, htaken, Latch.empty]

/-! ### Fetch and the end of the tick -/

theorem isSome_decodeInput_of_stall {s : State} {e : Executed} (h : stallSignal s e = true) :
    (decodeInput s e).isSome = true := by
  cases hd : decodeInput s e with
  | none => simp [stallSignal, hd] at h
  | some c => rfl

/-- When Fetch reads nothing, Decode's state is the edge's but for the end of tick. -/
theorem endTick_afterD {s : State} {e : Executed} (hs : s.status = .running) (hf : fetches s e = false) :
    (s.afterD e).endTick = normalEdge s e := by
  have hnow : fetchedNow s e = none := by simp [fetchedNow, hf]
  cases ht : e.taken <;>
    simp [endTick, afterD, afterEX, afterMEM, normalEdge, nextPcMux, nextFen, nextLF, nextLD, hf, hnow, ht, hs,
      backEdge]

theorem Inv.fetchPhase_afterD {s : State} {e : Executed} (h : s.Inv) (hs : s.status = .running) :
    ∃ f, fetchPhase (s.afterD e) = .next f ∧ f.endTick = normalEdge s e := by
  cases hf : fetches s e with
  | false =>
    refine ⟨_, ?_, endTick_afterD hs hf⟩
    cases ht : e.taken with
    | some target => exact fetchPhase_of_redir (by simp [afterD, afterEX, ht])
    | none =>
      cases hst : stallSignal s e with
      | true => exact fetchPhase_of_held (by simpa [afterD, hst] using isSome_decodeInput_of_stall hst)
      | false => exact fetchPhase_of_shut (by simpa [afterD, afterEX, ht, fetches, hst] using hf)
  | true =>
    obtain ⟨⟨hfen, htaken⟩, hst⟩ : (s.fen = true ∧ e.taken = none) ∧ stallSignal s e = false := by
      simpa [fetches] using hf
    have hpc : (s.afterD e).pc = s.pc := by simp [afterD, afterEX, htaken]
    rw [fetchPhase_of_open (by simp [afterD, afterEX, htaken]) (by simp [afterD, afterEX, hfen])
      (by simp [afterD, hst])]
    cases hw : s.recordAt s.pc with
    | none =>
      have hport : portRecord s = none := by simp [portRecord, hw]
      refine ⟨_, fetchRecord_of_none (by rw [hpc]; exact hw), ?_⟩
      simp [endTick, shutFetch, afterD, afterEX, afterMEM, normalEdge, nextPcMux, nextFen, nextLF, nextLD, fetchedNow,
        hf, hport, htaken, hst, hs, backEdge]
    | some w =>
      obtain ⟨r, hr⟩ := h.exists_decodeRecord hw
      have hport : portRecord s = some r := by simp [portRecord, hw, hr]
      refine ⟨_, fetchRecord_of_some (by rw [hpc]; exact hw) hr, ?_⟩
      by_cases hh : r.op = .halt <;>
        simp [endTick, fetched, afterD, afterEX, afterMEM, normalEdge, nextPcMux, nextFen, nextLF, nextLD, fetchedNow, hf,
          hport, htaken, hst, hs, hfen, hh, backEdge]

end State

/-! ### The statement -/

theorem clockedEdge_of_fault {s : State} {k : FaultKind} {c : InstructionContext} (hs : s.status = .running)
    (hk : executeSignals s = .fault k) (hc : s.lx.content = some c) : clockedEdge s = faultEdge s k c := by
  simp only [clockedEdge, hs, if_true, hk, hc]

theorem clockedEdge_of_ok {s : State} {e : Executed} (hs : s.status = .running) (he : executeSignals s = .ok e) :
    clockedEdge s = normalEdge s e := by
  simp only [clockedEdge, hs, if_true, he]

/-- Settles O31: phase by phase the tick leaves what the clocked implementation's signals say, and a fault after the
Memory phase leaves the frozen edge. -/
theorem clockedEdgeEqualsTick : Obligations.ClockedEdgeEqualsTick := by
  intro s h
  by_cases hs : s.status = .running
  · rw [step, tick_of_running hs, h.wbPhase_eq, andThen_next, h.memPhase_eq, andThen_next]
    cases hx : executeSignals s with
    | fault k =>
      obtain ⟨c, hc, hex⟩ := exPhase_of_fault (s := s.afterMEM) hx
      rw [hex, andThen_next, afterExecute_of_faulted rfl, clockedEdge_of_fault hs hx hc]
      rfl
    | ok e =>
      have hstatus : (s.afterEX e).status ≠ .faulted := by
        simp only [State.afterEX, State.afterMEM, hs]
        split <;> simp
      obtain ⟨f, hf, hend⟩ := h.fetchPhase_afterD hs (e := e)
      rw [exPhase_of_ok (s := s.afterMEM) rfl hx, State.completeExecute_afterMEM, andThen_next,
        afterExecute_of_not_faulted hstatus, h.decodePhase_afterEX, hf, andThen_next, hend, clockedEdge_of_ok hs hx]
  · rw [step, tick, if_neg hs, clockedEdge, if_neg hs]

end Sys2Proof.Machine

/-! ## One instruction, executed and completed, against its architectural effect (R108)

`SequentialState.complete q c e` is what the pipeline makes of `q` in the end when the instruction in `LX` is `c`, the
Execute stage answers `e`, and Memory and Writeback complete it: a load reads the memory, the destination register and
the stored word are committed. It is the instruction's architectural effect. -/

namespace Sys2Proof.Machine

/-! ### Commits -/

/-- The register file after the Writeback of an instruction, if there is one (R84). -/
def commitX (o : Option InstructionContext) (x : Vector Word 16) : Vector Word 16 :=
  match o with
  | none => x
  | some c =>
    match destination c.instr with
    | none => x
    | some rd => x.set rd.toNat c.resultField rd.isLt

/-- The data memory after the Writeback of an instruction, if there is one (R87). -/
def commitMem (o : Option InstructionContext) (m : Memory) : Memory :=
  match o with
  | none => m
  | some c => if storeClass c.instr then Memory.write m c.addrField c.resultField else m

namespace InstructionContext

/-- The context that Execute hands to `LM` (R90). -/
def executed (c : InstructionContext) (e : Executed) : InstructionContext :=
  { c with result := produced e.result c.result, addr := produced e.addr c.addr }

/-- The context that Memory hands to `LW` (R88). -/
def loaded (m : Memory) (c : InstructionContext) : InstructionContext :=
  if loadClass c.instr then { c with result := some (Memory.read m c.addrField) } else c

/-- The operands read at issue are the registers of `q` (R96, R108). -/
structure ReadsFrom (c : InstructionContext) (q : SequentialState) : Prop where
  operand1 : ∀ r, source1 c.instr = some r → c.operand1 = q.reg r
  operand2 : ∀ r, source2 c.instr = some r → c.operand2 = q.reg r
  operand3 : ∀ r, source3 c.instr = some r → c.operand3 = q.reg r

@[simp] theorem executed_instr (c : InstructionContext) (e : Executed) : (c.executed e).instr = c.instr := rfl

@[simp] theorem loaded_instr (m : Memory) (c : InstructionContext) : (c.loaded m).instr = c.instr := by
  unfold loaded
  split <;> rfl

theorem loaded_of_not_load {m : Memory} {c : InstructionContext} (h : loadClass c.instr = false) : c.loaded m = c := by
  simp [loaded, h]

theorem resultField_loaded {m : Memory} {c : InstructionContext} (h : loadClass c.instr = true) :
    (c.loaded m).resultField = Memory.read m c.addrField := by
  simp [loaded, h, resultField]

end InstructionContext

theorem commitX_of_no_destination {c : InstructionContext} (h : destination c.instr = none) (x : Vector Word 16) :
    commitX (some c) x = x := by
  simp [commitX, h]

theorem commitX_of_destination {c : InstructionContext} {rd : Reg} (h : destination c.instr = some rd)
    (x : Vector Word 16) : commitX (some c) x = x.set rd.toNat c.resultField rd.isLt := by
  simp [commitX, h]

theorem commitMem_of_not_store {c : InstructionContext} (h : storeClass c.instr = false) (m : Memory) :
    commitMem (some c) m = m := by
  simp [commitMem, h]

theorem commitMem_of_store {c : InstructionContext} (h : storeClass c.instr = true) (m : Memory) :
    commitMem (some c) m = Memory.write m c.addrField c.resultField := by
  simp [commitMem, h]

/-! ### The completed instruction -/

/-- `q` after the instruction `c` that Execute answers `e` for has been executed, loaded and committed. -/
def SequentialState.complete (q : SequentialState) (c : InstructionContext) (e : Executed) : SequentialState :=
  { q with
    x := commitX (some ((c.executed e).loaded q.dmem)) q.x
    dmem := commitMem (some ((c.executed e).loaded q.dmem)) q.dmem
    z := e.newZ.getD q.z
    apc := if c.instr = .halt then q.apc else e.taken.getD (nextPc q.apc)
    status := if c.instr = .halt then .halted else q.status }

/-! ### Addresses -/

/-- An effective address in range is not changed by wrapping (R160, R193). -/
theorem toNat_wrap32_of_addressInRange {n : Nat} {ea : Int} (h : addressInRange n ea = true)
    (hn : n ≤ Config.maxDmemWords) : (wrap32 ea).toNat = ea.toNat := by
  simp only [addressInRange, Bool.and_eq_true, decide_eq_true_eq] at h
  simp only [Config.maxDmemWords] at hn
  rw [wrap32, BitVec.toNat_ofInt]
  omega

theorem addressAnswer_eq_ok {n : Nat} {base off : Word} {result : Option Word} {e : Executed}
    (h : addressAnswer n base off result = .ok e) :
    addressInRange n (effectiveAddress base off) = true ∧
      e = { result := result, addr := some (wrap32 (effectiveAddress base off)) } := by
  unfold addressAnswer at h
  split at h
  · cases h
    exact ⟨‹_›, rfl⟩
  · cases h

theorem addressAnswer_eq_fault {n : Nat} {base off : Word} {result : Option Word} {k : FaultKind}
    (h : addressAnswer n base off result = .fault k) :
    addressInRange n (effectiveAddress base off) = false ∧ k = .address := by
  refine ⟨Bool.eq_false_iff.2 fun hr => ?_, addressAnswer_fault h⟩
  simp [addressAnswer, hr] at h

/-! ### Roles of an instruction with and without a destination (R67) -/

theorem storeClass_of_destination {i : Instr} {rd : Reg} (h : destination i = some rd) : storeClass i = false := by
  refine Bool.eq_false_iff.2 fun hs => ?_
  rw [destination_of_storeClass hs] at h
  cases h

theorem loadClass_of_no_destination {i : Instr} (h : destination i = none) : loadClass i = false := by
  refine Bool.eq_false_iff.2 fun hl => ?_
  have := destination_of_loadClass hl
  simp [h] at this

theorem ne_halt_of_destination {i : Instr} {rd : Reg} (h : destination i = some rd) : i ≠ .halt := by
  rintro rfl
  cases h

namespace SequentialState

theorem status_count (q : SequentialState) : q.count.status = q.status := by
  unfold count
  cases h : q.status <;> simp only [h]

theorem count_of_running {q : SequentialState} (h : q.status = .running) :
    q.count = { q with executed := q.executed + 1 } := by
  simp only [count, h]

theorem count_of_halted {q : SequentialState} (h : q.status = .halted) :
    q.count = { q with executed := q.executed + 1 } := by
  simp only [count, h]

theorem count_of_faulted {q : SequentialState} {kind : FaultKind} {pc : Word} {op : BitVec 8}
    (h : q.status = .faulted kind pc op) : q.count = q := by
  simp only [count, h]

variable {q : SequentialState} {c : InstructionContext} {i : Instr} {e : Executed}

theorem complete_arithmetic {rd : Reg} {v w : Word} (hi : c.instr = i) (hd : destination i = some rd)
    (hl : loadClass i = false) (he : arithmeticAnswer v = .ok e) (hv : v = w) : q.complete c e = q.arithmetic rd w := by
  subst hi hv
  cases he
  have hh := ne_halt_of_destination hd
  simp only [complete, InstructionContext.loaded_of_not_load (c := c.executed _) hl]
  rw [commitX_of_destination (c := c.executed _) hd,
    commitMem_of_not_store (c := c.executed _) (storeClass_of_destination hd), if_neg hh, if_neg hh]
  rfl

/-- An instruction with neither a destination nor a store touches the flag, the pc and the status only. -/
theorem complete_without_commit (hi : c.instr = i) (hd : destination i = none) (hs : storeClass i = false) :
    q.complete c e = { q with
      z := e.newZ.getD q.z
      apc := if i = .halt then q.apc else e.taken.getD (nextPc q.apc)
      status := if i = .halt then .halted else q.status } := by
  subst hi
  have hl := loadClass_of_no_destination hd
  simp only [complete, InstructionContext.loaded_of_not_load (c := c.executed _) hl]
  rw [commitX_of_no_destination (c := c.executed _) hd, commitMem_of_not_store (c := c.executed _) hs]

theorem complete_branch {taken : Bool} {imm : Word} (hi : c.instr = i) (hd : destination i = none)
    (hs : storeClass i = false) (hh : i ≠ .halt) (he : branchAnswer taken imm c = .ok e) (hpc : c.pc = q.apc) :
    q.complete c e = q.branch taken imm := by
  cases he
  rw [complete_without_commit hi hd hs, if_neg hh, if_neg hh, hpc]
  cases taken <;> rfl

theorem complete_load {n : Nat} {op : Opcode} {rd : Reg} {base off : Word} {ea : Int} (hi : c.instr = i)
    (hd : destination i = some rd) (hl : loadClass i = true) (hn : n ≤ Config.maxDmemWords)
    (he : addressAnswer n base off none = .ok e) (hea : effectiveAddress base off = ea) :
    q.complete c e = q.loadFrom n op rd ea := by
  subst hi hea
  obtain ⟨hr, rfl⟩ := addressAnswer_eq_ok he
  have hh := ne_halt_of_destination hd
  have haddr : (c.executed { addr := some (wrap32 (effectiveAddress base off)) }).addrField =
      (effectiveAddress base off).toNat := toNat_wrap32_of_addressInRange hr hn
  have hinstr (e : Executed) : ((c.executed e).loaded q.dmem).instr = c.instr := by simp
  rw [loadFrom, if_pos hr, complete, commitX_of_destination (by rw [hinstr]; exact hd),
    commitMem_of_not_store (by rw [hinstr]; exact storeClass_of_destination hd),
    InstructionContext.resultField_loaded (c := c.executed _) hl, if_neg hh, if_neg hh, haddr]
  rfl

theorem complete_store {n : Nat} {op : Opcode} {base off v w : Word} {ea : Int} (hi : c.instr = i)
    (hs : storeClass i = true) (hh : i ≠ .halt) (hn : n ≤ Config.maxDmemWords)
    (he : addressAnswer n base off (some v) = .ok e) (hv : v = w) (hea : effectiveAddress base off = ea) :
    q.complete c e = q.storeTo n op w ea := by
  subst hi hv hea
  obtain ⟨hr, rfl⟩ := addressAnswer_eq_ok he
  have hd := destination_of_storeClass hs
  have haddr : (c.executed { result := some v, addr := some (wrap32 (effectiveAddress base off)) }).addrField =
      (effectiveAddress base off).toNat := toNat_wrap32_of_addressInRange hr hn
  rw [storeTo, if_pos hr, complete,
    InstructionContext.loaded_of_not_load (c := c.executed _) (loadClass_of_no_destination hd),
    commitX_of_no_destination (c := c.executed _) hd, commitMem_of_store (c := c.executed _) hs, if_neg hh, if_neg hh,
    haddr]
  rfl

end SequentialState

/-! ### The effect of each instruction -/

theorem divUnit_eq_ok {c : InstructionContext} {e : Executed} (h : divUnit c = .ok e) :
    c.operand2 ≠ 0#32 ∧ arithmeticAnswer (divResult c.operand1 c.operand2) = .ok e := by
  unfold divUnit at h
  split at h
  · cases h
  · exact ⟨‹_›, h⟩

theorem divUnit_eq_fault {c : InstructionContext} {k : FaultKind} (h : divUnit c = .fault k) :
    c.operand2 = 0#32 ∧ k = .arithmetic := by
  refine ⟨?_, divUnit_fault h⟩
  by_contra hz
  simp [divUnit, hz, arithmeticAnswer] at h

open SequentialState in
/-- Without a fault, executing and completing an instruction is its architectural effect. -/
theorem complete_eq_architecturalEffect {n : Nat} {q : SequentialState} {c : InstructionContext} {e : Executed}
    (hn : n ≤ Config.maxDmemWords) (hpc : c.pc = q.apc) (hread : c.ReadsFrom q)
    (he : executeAnswer n q.z c.instr c = .ok e) : q.complete c e = architecturalEffect n c.instr q := by
  obtain ⟨h1, h2, h3⟩ := hread
  obtain ⟨i, hi⟩ : ∃ i, c.instr = i := ⟨_, rfl⟩
  rw [hi] at h1 h2 h3 he ⊢
  cases i with
  | nop => cases he; rw [complete_without_commit hi rfl rfl]; rfl
  | add => exact complete_arithmetic hi rfl rfl he (congrArg₂ addResult (h1 _ rfl) (h2 _ rfl))
  | sub => exact complete_arithmetic hi rfl rfl he (congrArg₂ subResult (h1 _ rfl) (h2 _ rfl))
  | and => exact complete_arithmetic hi rfl rfl he (congrArg₂ andResult (h1 _ rfl) (h2 _ rfl))
  | or => exact complete_arithmetic hi rfl rfl he (congrArg₂ orResult (h1 _ rfl) (h2 _ rfl))
  | xor => exact complete_arithmetic hi rfl rfl he (congrArg₂ xorResult (h1 _ rfl) (h2 _ rfl))
  | addl => exact complete_arithmetic hi rfl rfl he (congrArg (addResult · _) (h1 _ rfl))
  | subl => exact complete_arithmetic hi rfl rfl he (congrArg (subResult · _) (h1 _ rfl))
  | mul => exact complete_arithmetic hi rfl rfl he (congrArg₂ mulResult (h1 _ rfl) (h2 _ rfl))
  | cmp => cases he; rw [complete_without_commit hi rfl rfl, h1 _ rfl, h2 _ rfl]; rfl
  | movc => exact complete_arithmetic hi rfl rfl he rfl
  | div =>
    obtain ⟨hz, he⟩ := divUnit_eq_ok he
    rw [h2 _ rfl] at hz
    exact (complete_arithmetic hi rfl rfl he (congrArg₂ divResult (h1 _ rfl) (h2 _ rfl))).trans (if_neg hz).symm
  | bz => exact complete_branch hi rfl rfl nofun he hpc
  | bnz => exact complete_branch hi rfl rfl nofun he hpc
  | load => exact complete_load hi rfl rfl hn he (congrArg (effectiveAddress · _) (h1 _ rfl))
  | store => exact complete_store hi rfl nofun hn he (h1 _ rfl) (congrArg (effectiveAddress · _) (h2 _ rfl))
  | ldr => exact complete_load hi rfl rfl hn he (congrArg₂ effectiveAddress (h1 _ rfl) (h2 _ rfl))
  | str => exact complete_store hi rfl nofun hn he (h1 _ rfl) (congrArg₂ effectiveAddress (h2 _ rfl) (h3 _ rfl))
  | halt => cases he; rw [complete_without_commit hi rfl rfl]; rfl

/-- An instruction that faults in Execute faults in the sequential machine, with the same kind. -/
theorem architecturalEffect_of_fault {n : Nat} {q : SequentialState} {c : InstructionContext} {k : FaultKind}
    (hread : c.ReadsFrom q) (hk : executeAnswer n q.z c.instr c = .fault k) :
    architecturalEffect n c.instr q = q.fail k c.instr.record.op := by
  obtain ⟨h1, h2, h3⟩ := hread
  generalize c.instr = i at h1 h2 h3 hk
  have address {base off base' off' : Word} {result : Option Word} (hk : addressAnswer n base off result = .fault k)
      (hb : base = base') (ho : off = off') :
      ¬ addressInRange n (effectiveAddress base' off') = true ∧ k = .address := by
    subst hb ho
    obtain ⟨hr, hkind⟩ := addressAnswer_eq_fault hk
    exact ⟨by simp [hr], hkind⟩
  cases i with
  | div =>
    obtain ⟨hz, rfl⟩ := divUnit_eq_fault hk
    exact if_pos ((h2 _ rfl).symm.trans hz)
  | load =>
    obtain ⟨hr, rfl⟩ := address hk (h1 _ rfl) rfl
    exact if_neg hr
  | store =>
    obtain ⟨hr, rfl⟩ := address hk (h2 _ rfl) rfl
    exact if_neg hr
  | ldr =>
    obtain ⟨hr, rfl⟩ := address hk (h1 _ rfl) (h2 _ rfl)
    exact if_neg hr
  | str =>
    obtain ⟨hr, rfl⟩ := address hk (h2 _ rfl) (h3 _ rfl)
    exact if_neg hr
  | _ => cases hk

end Sys2Proof.Machine

/-! ## The pipeline against the sequential machine (R108)

The two machines meet at Execute: the sequential machine executes an instruction in the tick in which `LX` holds it.
What is ahead of it, in `LM` and `LW`, has already been executed and only has to be completed; so the registers and the
memory of the sequential machine are the pipeline's with `LW` and then `LM` completed (`State.finalX`,
`State.finalMem`). Every other tick leaves the sequential machine where it is. -/

namespace Sys2Proof.Machine

namespace State

/-! ### The state with the instructions in `LW` and `LM` completed -/

/-- The registers once the instructions in `LW` and `LM` are committed. -/
def finalX (s : State) : Vector Word 16 := commitX (nextLW s) (backEdge s).x

/-- The memory once the instructions in `LW` and `LM` are committed. -/
def finalMem (s : State) : Memory := commitMem (nextLW s) (backEdge s).dmem

/-- `RETIRED` once the instructions in `LW` and `LM` are counted. -/
def finalRetired (s : State) : BitVec 64 :=
  if s.lm.content.isSome then (backEdge s).retired + 1#64 else (backEdge s).retired

theorem backEdge_x (s : State) : (backEdge s).x = commitX s.lw.content s.x := by
  unfold backEdge regWritePort
  cases s.lw.content with
  | none => rfl
  | some c =>
    simp only [commitX]
    cases destination c.instr <;> rfl

theorem backEdge_dmem (s : State) : (backEdge s).dmem = commitMem s.lw.content s.dmem := by
  unfold backEdge memWritePort
  cases s.lw.content with
  | none => rfl
  | some c =>
    simp only [commitMem]
    cases storeClass c.instr <;> rfl

theorem backEdge_retired (s : State) :
    (backEdge s).retired = if s.lw.content.isSome then s.retired + 1#64 else s.retired := rfl

/-- The load in `LM` reads the memory that the store in `LW` leaves (R107 path (b)). -/
theorem nextLW_eq {s : State} (h : Memory.wf s.dmem = true) :
    nextLW s = s.lm.content.map (InstructionContext.loaded (backEdge s).dmem) := by
  have hread (a : Nat) : memReadThrough s a = Memory.read (backEdge s).dmem a := (word_afterWB h a).symm
  unfold nextLW
  cases s.lm.content with
  | none => rfl
  | some c => simp only [hread, Option.map_some, InstructionContext.loaded]; split <;> rfl

theorem isSome_nextLW (s : State) : (nextLW s).isSome = s.lm.content.isSome := by
  unfold nextLW
  cases s.lm.content with
  | none => rfl
  | some c => dsimp only; split <;> rfl

theorem getElem_commitX {o : Option InstructionContext} {r : Reg} (h : ∀ c ∈ o, destination c.instr ≠ some r)
    (x : Vector Word 16) : (commitX o x)[r.toNat]'(r.isLt) = x[r.toNat]'(r.isLt) := by
  cases o with
  | none => rfl
  | some c =>
    cases hd : destination c.instr with
    | none => simp only [commitX_of_no_destination hd]
    | some rd =>
      have hne : rd.toNat ≠ r.toNat := by
        rw [ne_eq, BitVec.toNat_inj]
        rintro rfl
        exact h c rfl hd
      simp only [commitX_of_destination hd, Vector.getElem_set_ne _ _ hne]

theorem destination_ne_of_writes {l : Latch} {r : Reg} (h : l.writes r = 0) :
    ∀ c ∈ l.content, destination c.instr ≠ some r := by
  intro c hc hd
  rw [Latch.writes_some hc, hd] at h
  simp at h

/-- A register that no instruction in `LM` or `LW` writes has its final value. -/
theorem finalX_of_no_writer {s : State} {r : Reg} (hm : s.lm.writes r = 0) (hw : s.lw.writes r = 0) :
    s.finalX[r.toNat]'(r.isLt) = s.reg r := by
  have hlm : ∀ c ∈ nextLW s, destination c.instr ≠ some r := by
    intro c hc
    unfold nextLW at hc
    cases hd : s.lm.content with
    | none => simp [hd] at hc
    | some d =>
      have hinstr : c.instr = d.instr := by
        simp only [hd] at hc
        split at hc <;> cases hc <;> rfl
      rw [hinstr]
      exact destination_ne_of_writes hm d hd
  rw [finalX, getElem_commitX hlm]
  simp only [backEdge_x, getElem_commitX (destination_ne_of_writes hw)]
  rfl

/-! ### The tick without a fault -/

section
variable {s : State} {e : Executed}

theorem nextLM_eq : nextLM s e = s.lx.content.map (·.executed e) := by
  unfold nextLM
  cases s.lx.content <;> rfl

theorem nextLW_normalEdge (h : (normalEdge s e).Inv) :
    nextLW (normalEdge s e) = (nextLM s e).map (InstructionContext.loaded s.finalMem) := by
  rw [nextLW_eq h.dmemCanonical, backEdge_dmem]
  rfl

theorem finalX_normalEdge (h : (normalEdge s e).Inv) :
    (normalEdge s e).finalX = commitX ((nextLM s e).map (InstructionContext.loaded s.finalMem)) s.finalX := by
  rw [finalX, nextLW_normalEdge h, backEdge_x]
  rfl

theorem finalMem_normalEdge (h : (normalEdge s e).Inv) :
    (normalEdge s e).finalMem = commitMem ((nextLM s e).map (InstructionContext.loaded s.finalMem)) s.finalMem := by
  rw [finalMem, nextLW_normalEdge h, backEdge_dmem]
  rfl

theorem finalRetired_normalEdge :
    (normalEdge s e).finalRetired = if s.lx.content.isSome then s.finalRetired + 1#64 else s.finalRetired := by
  have hlm : (normalEdge s e).lm.content.isSome = s.lx.content.isSome := by
    change (nextLM s e).isSome = _
    rw [nextLM_eq, Option.isSome_map]
  have hret : (backEdge (normalEdge s e)).retired = s.finalRetired := by
    change (if (nextLW s).isSome then (backEdge s).retired + 1#64 else (backEdge s).retired) = _
    rw [isSome_nextLW]
    rfl
  rw [finalRetired, hlm, hret]

theorem normalEdge_z : (normalEdge s e).z = e.newZ.getD s.z := by
  simp only [normalEdge]
  cases e.newZ <;> rfl

theorem reg_normalEdge (r : Reg) : (normalEdge s e).reg r = readThrough s r := reg_afterEX s e r

theorem pending_normalEdge (r : Reg) :
    (normalEdge s e).pending r = if markedRegister s e = some r then true else pendingThrough s r := by
  rw [← pending_afterEX s e r]
  cases hm : markedRegister s e with
  | none => simp [pending, normalEdge, hm, afterEX, afterMEM]
  | some rd => simp [pending, normalEdge, hm, afterEX, afterMEM, Vector.getElem_set, BitVec.toNat_inj]

end

/-! ### Agreement of the data -/

/-- The pipeline's state has the sequential machine's data once what has been executed is completed. -/
structure Agrees (s : State) (q : SequentialState) : Prop where
  inv : s.Inv
  x : s.finalX = q.x
  dmem : s.finalMem = q.dmem
  z : s.z = q.z
  retired : s.finalRetired = BitVec.ofNat 64 q.executed

theorem Inv.step_eq {s : State} (h : s.Inv) : Machine.step s = .next (clockedEdge s) := clockedEdgeEqualsTick s h

theorem clockedEdge_inv {s : State} (h : s.Inv) : (clockedEdge s).Inv := h.step h.step_eq

theorem normalEdge_inv {s : State} {e : Executed} (h : s.Inv) (hs : s.status = .running)
    (he : executeSignals s = .ok e) : (normalEdge s e).Inv :=
  clockedEdge_of_ok hs he ▸ clockedEdge_inv h

theorem Inv.dmemWords_le {s : State} (h : s.Inv) : s.params.dmemWords ≤ Config.maxDmemWords := by
  have hsize := h.dmemSize
  rw [dmemWordsLegal, Bool.and_eq_true, decide_eq_true_eq, decide_eq_true_eq] at hsize
  exact hsize.2

theorem Agrees.bubble {s : State} {q : SequentialState} (h : s.Agrees q) (hs : s.status = .running)
    (hx : s.lx.content = none) : (normalEdge s {}).Agrees q := by
  have hinv := normalEdge_inv h.inv hs (executeSignals_of_empty hx)
  have hlm : nextLM s {} = none := by rw [nextLM_eq, hx]; rfl
  constructor
  case inv => exact hinv
  case x => rw [finalX_normalEdge hinv, hlm]; exact h.x
  case dmem => rw [finalMem_normalEdge hinv, hlm]; exact h.dmem
  case z => exact h.z
  case retired => rw [finalRetired_normalEdge, hx]; exact h.retired

/-- The tick in which an instruction executes is one step of the sequential machine on the data. -/
theorem Agrees.complete {s : State} {q : SequentialState} {c : InstructionContext} {e : Executed} (h : s.Agrees q)
    (hs : s.status = .running) (hc : s.lx.content = some c) (he : executeSignals s = .ok e) :
    (normalEdge s e).Agrees { q.complete c e with executed := q.executed + 1 } := by
  have hinv := normalEdge_inv h.inv hs he
  have hlm : nextLM s e = some (c.executed e) := by rw [nextLM_eq, hc]; rfl
  constructor
  case inv => exact hinv
  case x => rw [finalX_normalEdge hinv, hlm, h.x, h.dmem]; rfl
  case dmem => rw [finalMem_normalEdge hinv, hlm, h.dmem]; rfl
  case z => rw [normalEdge_z, h.z]; rfl
  case retired => rw [finalRetired_normalEdge, hc, BitVec.ofNat_add, ← h.retired]; rfl

/-! ### The front of the pipeline

The instruction that Execute will see after the one in `LX` is the one in `LD`, or the record at the pc. -/

/-- The address of the instruction in `LD`, or where it will be fetched from. -/
def decodePc (s : State) : Word := (s.ld.content.map (·.pc)).getD s.pc

/-- The address of the instruction in `LX`, or of the one that will come there next. -/
def frontPc (s : State) : Word := (s.lx.content.map (·.pc)).getD s.decodePc

section
variable {s : State} {e : Executed}

theorem decodeInput_of_not_taken (ht : e.taken = none) : decodeInput s e = s.ld.content := by simp [decodeInput, ht]

theorem decodeInput_of_taken {target : Word} (ht : e.taken = some target) : decodeInput s e = none := by
  simp [decodeInput, ht]

theorem stallSignal_of_no_input (h : decodeInput s e = none) : stallSignal s e = false := by simp [stallSignal, h]

theorem issued_of_no_stall (h : stallSignal s e = false) : issued s e = decodeInput s e := by simp [issued, h]

theorem lx_normalEdge : (normalEdge s e).lx.content = (issued s e).map (·.withOperands s) := by
  simp only [normalEdge, nextLX]
  cases issued s e <;> rfl

/-- A stalled instruction stays in `LD` behind a bubble (R95, R107 path (d)). -/
theorem normalEdge_of_stall (h : stallSignal s e = true) :
    (normalEdge s e).lx.content = none ∧ (normalEdge s e).ld.content = decodeInput s e := by
  have hissued : issued s e = none := by simp [issued, h]
  rw [lx_normalEdge, hissued]
  simp [normalEdge, nextLD, h]

/-- Without a stall `LD` takes what Fetch brings (R104, R105). -/
theorem ld_normalEdge_of_no_stall (h : stallSignal s e = false) :
    (normalEdge s e).ld.content = (fetchedNow s e).map (fetchedContext s.pc) := by
  simp [normalEdge, nextLD, h]

theorem pc_normalEdge_of_not_fetched (ht : e.taken = none) (hn : fetchedNow s e = none) :
    (normalEdge s e).pc = s.pc := by
  simp [normalEdge, nextPcMux, ht, hn]

/-- A taken branch leaves the front empty and fetch open at its target (R92). -/
theorem front_normalEdge_of_taken {target : Word} (ht : e.taken = some target) :
    (normalEdge s e).lx.content = none ∧ (normalEdge s e).ld.content = none ∧ (normalEdge s e).pc = target ∧
      (normalEdge s e).fen = true := by
  have hd := decodeInput_of_taken (s := s) ht
  have hst := stallSignal_of_no_input hd
  have hnow : fetchedNow s e = none := by simp [fetchedNow, fetches, ht]
  rw [lx_normalEdge, issued_of_no_stall hst, hd, ld_normalEdge_of_no_stall hst, hnow]
  simp [normalEdge, nextPcMux, nextFen, ht]

theorem decodePc_normalEdge (ht : e.taken = none) (hst : stallSignal s e = false) :
    (normalEdge s e).decodePc = s.pc := by
  rw [decodePc, ld_normalEdge_of_no_stall hst]
  cases hn : fetchedNow s e with
  | none => exact pc_normalEdge_of_not_fetched ht hn
  | some r => rfl

/-- Without a taken branch the next instruction to come to `LX` is the one that was next before the tick. -/
theorem frontPc_normalEdge (ht : e.taken = none) : (normalEdge s e).frontPc = s.decodePc := by
  have hd := decodeInput_of_not_taken (s := s) ht
  cases hst : stallSignal s e with
  | true =>
    obtain ⟨hlx, hld⟩ := normalEdge_of_stall hst
    obtain ⟨c, hc⟩ := Option.isSome_iff_exists.1 (isSome_decodeInput_of_stall hst)
    rw [frontPc, hlx, Option.map_none, Option.getD_none, decodePc, decodePc, hld, ← hd, hc]
    rfl
  | false =>
    rw [frontPc, decodePc_normalEdge ht hst, lx_normalEdge, issued_of_no_stall hst, hd, decodePc, Option.map_map]
    rfl

/-- What has been issued without a stall. -/
theorem exists_issued {c : InstructionContext} (hc : (normalEdge s e).lx.content = some c) :
    ∃ d, stallSignal s e = false ∧ decodeInput s e = some d ∧ c = d.withOperands s := by
  cases hst : stallSignal s e with
  | true =>
    rw [(normalEdge_of_stall hst).1] at hc
    cases hc
  | false =>
    rw [lx_normalEdge, issued_of_no_stall hst, Option.map_eq_some_iff] at hc
    obtain ⟨d, hd, rfl⟩ := hc
    exact ⟨d, rfl, hd, rfl⟩

/-- The instructions in `LX` and `LD` are consecutive (R102, R104). -/
theorem Inv.decodePc_normalEdge_of_lx {c : InstructionContext} (h : s.Inv) (ht : e.taken = none)
    (hc : (normalEdge s e).lx.content = some c) : (normalEdge s e).decodePc = nextPc c.pc := by
  obtain ⟨d, hst, hd, rfl⟩ := exists_issued hc
  rw [decodeInput_of_not_taken ht] at hd
  rw [decodePc_normalEdge ht hst]
  exact h.fetchAddress d hd

/-! ### Operands -/

/-- Where no hazard is seen, no instruction in `LM` or `LW` writes the register after the tick: the scoreboard counts
the writers exactly (R11, R94). -/
theorem no_writer_of_not_pending {c d : InstructionContext} {r : Reg} (hinv : (normalEdge s e).Inv)
    (hst : stallSignal s e = false) (hd : decodeInput s e = some d) (hc : (normalEdge s e).lx.content = some c)
    (hcd : c.instr = d.instr) (hr : pendingThrough s r = false) :
    (normalEdge s e).lm.writes r = 0 ∧ (normalEdge s e).lw.writes r = 0 := by
  have hcount := hinv.scoreboard r
  have hmark : markedRegister s e = destination d.instr := by simp [markedRegister, issued_of_no_stall hst, hd]
  have hown : (destination d.instr == some r).toNat =
      if (if destination d.instr = some r then true else false) = true then 1 else 0 := by
    by_cases hdest : destination d.instr = some r <;> simp [hdest]
  rw [writersInFlight, pending_normalEdge, hmark, hr, Latch.writes_some hc, hcd, ← hown] at hcount
  omega

theorem operandPending_of_no_stall {d : InstructionContext} (hst : stallSignal s e = false)
    (hd : decodeInput s e = some d) :
    operandPending s (source1 d.instr) = false ∧ operandPending s (source2 d.instr) = false ∧
      operandPending s (source3 d.instr) = false := by
  simp only [stallSignal, hd, Bool.or_eq_false_iff] at hst
  obtain ⟨⟨⟨h1, h2⟩, h3⟩, _⟩ := hst
  exact ⟨h1, h2, h3⟩

/-- The operands read at issue are the registers with all earlier instructions completed (R96). -/
theorem readsFrom_of_issued {c : InstructionContext} {q : SequentialState} (hinv : (normalEdge s e).Inv)
    (hx : (normalEdge s e).finalX = q.x) (hc : (normalEdge s e).lx.content = some c) : c.ReadsFrom q := by
  obtain ⟨d, hst, hd, rfl⟩ := exists_issued hc
  obtain ⟨hp1, hp2, hp3⟩ := operandPending_of_no_stall hst hd
  have hread {o : Option Reg} {old : Option Word} {free : Word} (hp : operandPending s o = false) (r : Reg)
      (ho : o = some r) : (operandThrough s o old).getD free = q.reg r := by
    subst ho
    obtain ⟨hm, hw⟩ := no_writer_of_not_pending hinv hst hd hc rfl hp
    calc readThrough s r = (normalEdge s e).reg r := (reg_normalEdge r).symm
      _ = (normalEdge s e).finalX[r.toNat]'(r.isLt) := (finalX_of_no_writer hm hw).symm
      _ = q.reg r := by simp only [hx]; rfl
  exact ⟨hread hp1, hread hp2, hread hp3⟩

/-! ### Fetch shut -/

/-- Fetch is shut for a reason that lies at the front: no record at the pc, or a HALT not yet executed (R104, R105). -/
def ShutForReason (s : State) : Prop :=
  s.fen = false → s.recordAt s.pc = none ∨ s.ld.holdsHalt ∨ s.lx.holdsHalt

theorem Inv.shutForReason_normalEdge (h : s.Inv) (ht : e.taken = none) (hx : ¬ s.lx.holdsHalt)
    (hs : s.ShutForReason) : (normalEdge s e).ShutForReason := by
  intro hfen
  have hd := decodeInput_of_not_taken (s := s) ht
  cases hf : fetches s e with
  | true =>
    have hst : stallSignal s e = false := by
      by_contra hst
      simp [fetches, hst] at hf
    cases hw : s.recordAt s.pc with
    | none =>
      have hnow : fetchedNow s e = none := by simp [fetchedNow, hf, portRecord, hw]
      exact .inl (by rw [pc_normalEdge_of_not_fetched ht hnow]; exact hw)
    | some w =>
      obtain ⟨r, hr⟩ := h.exists_decodeRecord hw
      have hport : portRecord s = some r := by simp [portRecord, hw, hr]
      have hop : r.op = .halt := by simpa [normalEdge, nextFen, ht, hf, hport] using hfen
      refine .inr (.inl ⟨fetchedContext s.pc r, ?_, (Record.instr_eq_halt r).2 hop⟩)
      rw [ld_normalEdge_of_no_stall hst, fetchedNow, if_pos hf, hport]
      rfl
  | false =>
    have hnow : fetchedNow s e = none := by simp [fetchedNow, hf]
    have hshut : s.fen = false := by simpa [normalEdge, nextFen, ht, hf] using hfen
    rcases hs hshut with hnone | ⟨c, hc, hh⟩ | hlx
    · exact .inl (by rw [pc_normalEdge_of_not_fetched ht hnow]; exact hnone)
    · cases hst : stallSignal s e with
      | true => exact .inr (.inl ⟨c, by rw [(normalEdge_of_stall hst).2, hd]; exact hc, hh⟩)
      | false =>
        refine .inr (.inr ⟨c.withOperands s, ?_, hh⟩)
        rw [lx_normalEdge, issued_of_no_stall hst, hd, hc]
        rfl
    · exact (hx hlx).elim

end

/-! ### The relation between the two machines -/

/-- Both machines run: the next instruction of the sequential machine is the next that Execute will see, and when it is
in `LX` its operands are the sequential machine's. -/
structure Simulates (s : State) (q : SequentialState) : Prop extends s.Agrees q where
  running : s.status = .running
  sequentialRunning : q.status = .running
  noHaltAhead : ¬ s.lm.holdsHalt ∧ ¬ s.lw.holdsHalt
  apc : s.frontPc = q.apc
  consecutive : ∀ c ∈ s.lx.content, s.decodePc = nextPc c.pc
  operands : ∀ c ∈ s.lx.content, c.ReadsFrom q
  shutForReason : s.ShutForReason

/-- The sequential machine has executed HALT, which is still in `LM` or `LW`: the pipeline drains (R89). -/
structure Drains (s : State) (q : SequentialState) : Prop extends s.Agrees q where
  running : s.status = .running
  haltAhead : s.lm.holdsHalt ∨ s.lw.holdsHalt
  bubble : s.lx.content = none ∧ s.ld.content = none
  pc : s.pc = nextPc q.apc

/-- Both machines have taken the same fault; the pipeline's data are the sequential machine's once the instruction in
`LW` is committed (R198). -/
structure FaultsAs (s : State) (q : SequentialState) (fault : FaultRecord) : Prop where
  faulted : s.status = .faulted
  fault : s.fault = fault
  z : s.z = q.z
  committed : ∃ u, wbPhase s = .next u ∧ u.x = q.x ∧ u.dmem = q.dmem

/-- The pipeline's state corresponds to the sequential machine's, however that stands. -/
def Corresponds (s : State) (q : SequentialState) : Prop :=
  match q.status with
  | .running => s.Simulates q
  | .stuck => False
  | .halted => s.Drains q
  | .faulted kind pc op => s.FaultsAs q { kind := kind, pc := pc, op := op }

theorem corresponds_of_running {s : State} {q : SequentialState} (hq : q.status = .running) :
    s.Corresponds q ↔ s.Simulates q := by
  simp only [Corresponds, hq]

theorem corresponds_of_halted {s : State} {q : SequentialState} (hq : q.status = .halted) :
    s.Corresponds q ↔ s.Drains q := by
  simp only [Corresponds, hq]

theorem corresponds_of_faulted {s : State} {q : SequentialState} {kind : FaultKind} {pc : Word} {op : BitVec 8}
    (hq : q.status = .faulted kind pc op) :
    s.Corresponds q ↔ s.FaultsAs q { kind := kind, pc := pc, op := op } := by
  simp only [Corresponds, hq]

theorem not_corresponds_of_stuck {s : State} {q : SequentialState} (hq : q.status = .stuck) : ¬ s.Corresponds q := by
  simp only [Corresponds, hq, not_false_eq_true]

/-! ### A HALT moving to retirement -/

section
variable {s : State} {e : Executed}

theorem holdsHalt_lm_normalEdge : (normalEdge s e).lm.holdsHalt ↔ s.lx.holdsHalt := by
  change (∃ c ∈ nextLM s e, c.instr = .halt) ↔ _
  rw [nextLM_eq]
  simp [Latch.holdsHalt]

theorem holdsHalt_lw_normalEdge : (normalEdge s e).lw.holdsHalt ↔ s.lm.holdsHalt := by
  change (∃ c ∈ nextLW s, c.instr = .halt) ↔ _
  unfold nextLW Latch.holdsHalt
  cases s.lm.content with
  | none => simp
  | some c => dsimp only; split <;> simp [InstructionContext.instr]

theorem haltRetires_eq_true : haltRetires s = true ↔ s.lw.holdsHalt := by
  unfold haltRetires Latch.holdsHalt
  cases s.lw.content <;> simp

theorem status_normalEdge_of_halt (h : s.lw.holdsHalt) : (normalEdge s e).status = .halted := by
  simp [normalEdge, haltRetires_eq_true.2 h]

theorem status_normalEdge_of_no_halt (h : ¬ s.lw.holdsHalt) : (normalEdge s e).status = .running := by
  have hret : haltRetires s = false := Bool.eq_false_iff.2 fun hh => h (haltRetires_eq_true.1 hh)
  simp [normalEdge, hret]

end

/-! ### One tick -/

theorem frontPc_of_bubble {s : State} (hx : s.lx.content = none) : s.frontPc = s.decodePc := by simp [frontPc, hx]

/-- The control part of a tick without a fault: whatever the data come to, both machines run on at the same address,
the branch target or the next instruction's. -/
theorem Simulates.advance {s : State} {q q' : SequentialState} {e : Executed} (h : s.Simulates q)
    (hagree : (normalEdge s e).Agrees q') (hq : q'.status = .running) (hx : ¬ s.lx.holdsHalt)
    (hapc : q'.apc = e.taken.getD s.decodePc) : (normalEdge s e).Simulates q' := by
  obtain ⟨hlm, hlw⟩ := h.noHaltAhead
  have hstatus : (normalEdge s e).status = .running := status_normalEdge_of_no_halt hlw
  have hhalt : ¬ (normalEdge s e).lm.holdsHalt ∧ ¬ (normalEdge s e).lw.holdsHalt :=
    ⟨mt holdsHalt_lm_normalEdge.1 hx, mt holdsHalt_lw_normalEdge.1 hlm⟩
  have hoperands (c : InstructionContext) (hc : c ∈ (normalEdge s e).lx.content) : c.ReadsFrom q' :=
    readsFrom_of_issued hagree.inv hagree.x hc
  cases ht : e.taken with
  | none =>
    rw [ht, Option.getD_none] at hapc
    exact { hagree with
      running := hstatus
      sequentialRunning := hq
      noHaltAhead := hhalt
      apc := by rw [frontPc_normalEdge ht, hapc]
      consecutive := fun c hc => h.inv.decodePc_normalEdge_of_lx ht hc
      operands := hoperands
      shutForReason := h.inv.shutForReason_normalEdge ht hx h.shutForReason }
  | some target =>
    rw [ht, Option.getD_some] at hapc
    obtain ⟨hlx, hld, hpc, hfen⟩ := front_normalEdge_of_taken (s := s) ht
    exact { hagree with
      running := hstatus
      sequentialRunning := hq
      noHaltAhead := hhalt
      apc := by rw [frontPc_of_bubble hlx, decodePc, hld, hapc]; exact hpc
      consecutive := fun c hc => by rw [hlx] at hc; cases hc
      operands := hoperands
      shutForReason := fun hshut => by rw [hfen] at hshut; cases hshut }

theorem Simulates.bubble {s : State} {q : SequentialState} (h : s.Simulates q) (hx : s.lx.content = none) :
    step s = .next (normalEdge s {}) ∧ (normalEdge s {}).Simulates q := by
  constructor
  · rw [h.inv.step_eq, clockedEdge_of_ok h.running (executeSignals_of_empty hx)]
  · refine h.advance (h.toAgrees.bubble h.running hx) h.sequentialRunning (not_holdsHalt_of_empty hx) ?_
    rw [← h.apc, frontPc_of_bubble hx]
    rfl

/-- The sequential machine's step is the architectural effect of the instruction in `LX`. -/
theorem Simulates.sequentialStep_eq {s : State} {q : SequentialState} {c : InstructionContext} (h : s.Simulates q)
    (hc : s.lx.content = some c) :
    sequentialStep s.params s.table q = (architecturalEffect s.params.dmemWords c.instr q).count := by
  obtain ⟨_, hlx, _, _⟩ := h.inv.recordsUnchanged
  obtain ⟨w, hw, hr⟩ := hlx c hc
  have hpc : q.apc = c.pc := by rw [← h.apc, frontPc, hc]; rfl
  have hrec : recordIn s.params.pcBase s.table q.apc = some w := by rw [hpc]; exact hw
  have hdec : decode w = .ok c.instr := decode_of_decodeRecord hr
  simp only [sequentialStep, h.sequentialRunning, if_true, hrec, hdec]

/-- A HALT in `LX` is alone at the front: nothing has been fetched after it, and the pc is after it (R89, R104). -/
theorem Simulates.front_of_halt {s : State} {q : SequentialState} {c : InstructionContext} {e : Executed}
    (h : s.Simulates q) (hc : s.lx.content = some c) (hh : c.instr = .halt) (ht : e.taken = none) :
    ((normalEdge s e).lx.content = none ∧ (normalEdge s e).ld.content = none) ∧
      (normalEdge s e).pc = nextPc c.pc := by
  obtain ⟨hfen, hld⟩ := h.inv.haltInExecute ⟨c, hc, hh⟩
  have hd : decodeInput s e = none := by rw [decodeInput_of_not_taken ht, hld]
  have hst := stallSignal_of_no_input hd
  have hnow : fetchedNow s e = none := by simp [fetchedNow, fetches, hfen]
  refine ⟨⟨?_, ?_⟩, ?_⟩
  · rw [lx_normalEdge, issued_of_no_stall hst, hd, Option.map_none]
  · rw [ld_normalEdge_of_no_stall hst, hnow, Option.map_none]
  · rw [pc_normalEdge_of_not_fetched ht hnow, ← h.consecutive c hc, decodePc, hld]
    rfl

/-- The tick in which an instruction executes without a fault is the sequential machine's step (R108). -/
theorem Simulates.execute {s : State} {q : SequentialState} {c : InstructionContext} {e : Executed}
    (h : s.Simulates q) (hc : s.lx.content = some c) (he : executeSignals s = .ok e) :
    (normalEdge s e).Corresponds (sequentialStep s.params s.table q) := by
  have hpc : c.pc = q.apc := by rw [← h.apc, frontPc, hc]; rfl
  have hanswer : executeAnswer s.params.dmemWords q.z c.instr c = .ok e := by
    rw [← h.z, ← executeSignals_of_some hc, he]
  have hagree := h.toAgrees.complete h.running hc he
  rw [h.sequentialStep_eq hc, ← complete_eq_architecturalEffect h.inv.dmemWords_le hpc (h.operands c hc) hanswer]
  by_cases hh : c.instr = .halt
  · have hstatus : (q.complete c e).status = .halted := if_pos hh
    have ht : e.taken = none := by
      obtain ⟨_, _, _, _, htaken⟩ := executeAnswer_ok hanswer
      by_contra hne
      exact (htaken (Option.isSome_iff_ne_none.2 hne)).2 hh
    obtain ⟨hbubble, hnext⟩ := h.front_of_halt hc hh ht
    have hapc : (q.complete c e).apc = c.pc := (if_pos hh).trans hpc.symm
    rw [corresponds_of_halted ((q.complete c e).status_count.trans hstatus), SequentialState.count_of_halted hstatus]
    exact { hagree with
      running := status_normalEdge_of_no_halt h.noHaltAhead.2
      haltAhead := .inl (holdsHalt_lm_normalEdge.2 ⟨c, hc, hh⟩)
      bubble := hbubble
      pc := by rw [hnext]; exact congrArg nextPc hapc.symm }
  · have hstatus : (q.complete c e).status = .running := (if_neg hh).trans h.sequentialRunning
    have hapc : (q.complete c e).apc = e.taken.getD s.decodePc := by
      rw [h.consecutive c hc, hpc]
      exact if_neg hh
    rw [corresponds_of_running ((q.complete c e).status_count.trans hstatus), SequentialState.count_of_running hstatus]
    refine h.advance hagree hstatus ?_ hapc
    rintro ⟨d, hd, hd'⟩
    cases hc.symm.trans hd
    exact hh hd'

/-- The tick of a fault is the sequential machine's step: what is ahead of the faulting instruction stands in `LW`, and
committing it gives the sequential machine's data (R91, R198). -/
theorem Simulates.executeFault {s : State} {q : SequentialState} {c : InstructionContext} {k : FaultKind}
    (h : s.Simulates q) (hc : s.lx.content = some c) (hk : executeSignals s = .fault k) :
    (faultEdge s k c).Corresponds (sequentialStep s.params s.table q) := by
  have hanswer : executeAnswer s.params.dmemWords q.z c.instr c = .fault k := by
    rw [← h.z, ← executeSignals_of_some hc, hk]
  have hpc : c.pc = q.apc := by rw [← h.apc, frontPc, hc]; rfl
  have hop : c.instr.record.op = c.record.op := by rw [InstructionContext.instr, Record.instr_record]; rfl
  have hinv : (faultEdge s k c).Inv := clockedEdge_of_fault h.running hk hc ▸ clockedEdge_inv h.inv
  rw [h.sequentialStep_eq hc, architecturalEffect_of_fault (h.operands c hc) hanswer,
    SequentialState.count_of_faulted rfl, corresponds_of_faulted rfl]
  constructor
  case faulted => rfl
  case fault => rw [hop, ← hpc]; rfl
  case z => exact h.z
  case committed => exact ⟨_, hinv.wbPhase_eq, (backEdge_x _).trans h.x, (backEdge_dmem _).trans h.dmem⟩

/-- The tick that executes an instruction is one step of the sequential machine. -/
theorem Simulates.step_of_lx {s : State} {q : SequentialState} (h : s.Simulates q) (hx : s.lx.content.isSome = true) :
    ∃ t, Machine.step s = .next t ∧ t.Corresponds (sequentialStep s.params s.table q) := by
  obtain ⟨c, hc⟩ := Option.isSome_iff_exists.1 hx
  cases hx : executeSignals s with
  | ok e => exact ⟨_, by rw [h.inv.step_eq, clockedEdge_of_ok h.running hx], h.execute hc hx⟩
  | fault k => exact ⟨_, by rw [h.inv.step_eq, clockedEdge_of_fault h.running hx hc], h.executeFault hc hx⟩

/-- Every tick leaves the sequential machine where it is or is one step of it. -/
theorem Simulates.step {s : State} {q : SequentialState} (h : s.Simulates q) :
    ∃ t, Machine.step s = .next t ∧ (t.Corresponds q ∨ t.Corresponds (sequentialStep s.params s.table q)) := by
  cases hx : s.lx.content with
  | none =>
    obtain ⟨hstep, hsim⟩ := h.bubble hx
    exact ⟨_, hstep, .inl ((corresponds_of_running h.sequentialRunning).2 hsim)⟩
  | some c =>
    obtain ⟨t, ht, hcorr⟩ := h.step_of_lx (by rw [hx]; rfl)
    exact ⟨t, ht, .inr hcorr⟩

end State
end Sys2Proof.Machine

namespace Sys2Proof.Machine

/-- No step writes the parameters or the instruction table (R24, R27). -/
theorem step_params_table {s t : State} (h : step s = .next t) : t.params = s.params ∧ t.table = s.table := by
  rcases step_cases h with ⟨_, rfl⟩ | ⟨u, v, w, _, hwb, hmem, hex, hend⟩
  · exact ⟨rfl, rfl⟩
  · obtain ⟨_, _, _, _, _, _, _, _, _, _, _, hup, hut⟩ := wbPhase_fields hwb
    obtain ⟨hv, _, _⟩ := memPhase_fields hmem
    have hvs : v.params = s.params ∧ v.table = s.table := by rw [hv]; exact ⟨hup, hut⟩
    have hwv : w.params = v.params ∧ w.table = v.table := by
      rcases exPhase_cases hex with ⟨_, rfl⟩ | ⟨_, _, _, _, rfl⟩ | ⟨_, _, _, _, rfl⟩
      · exact ⟨rfl, rfl⟩
      · exact ⟨rfl, rfl⟩
      · rw [State.finishExecute_eq]
        exact ⟨rfl, rfl⟩
    have hws : w.params = s.params ∧ w.table = s.table := ⟨hwv.1.trans hvs.1, hwv.2.trans hvs.2⟩
    rcases hend with ⟨_, rfl⟩ | ⟨_, f, hf, rfl⟩
    · exact hws
    · rw [fetchPhase_fields hf, decodePhase_fields]
      exact hws

theorem runsTo_params_table {k : Nat} {s t : State} (h : RunsTo k s t) : t.params = s.params ∧ t.table = s.table := by
  induction k generalizing s with
  | zero =>
    cases h
    exact ⟨rfl, rfl⟩
  | succ k ih =>
    obtain ⟨u, hu, hut⟩ := runsTo_succ.1 h
    obtain ⟨hp, ht⟩ := step_params_table hu
    obtain ⟨hp', ht'⟩ := ih hut
    exact ⟨hp'.trans hp, ht'.trans ht⟩

namespace State

/-! ### Reaching Execute

While the sequential machine has a record to execute, at most three ticks bring it to `LX`: fetch, a stall behind the
writer in `LM`, issue. -/

theorem pendingThrough_of_empty {s : State} (hw : s.lw.content = none) (r : Reg) :
    pendingThrough s r = s.pending r := by
  simp only [pendingThrough, regWritePort, hw]

theorem pendingThrough_of_some {s : State} {c : InstructionContext} (hw : s.lw.content = some c) (r : Reg) :
    pendingThrough s r = if destination c.instr = some r then false else s.pending r := by
  cases hd : destination c.instr <;> simp [pendingThrough, regWritePort, hw, hd]

/-- With `LX` and `LM` empty only the instruction in `LW` can have marked a register, and its mark is seen cleared
(R107 path (a)). -/
theorem Inv.pendingThrough_eq_false {s : State} (h : s.Inv) (hx : s.lx.content = none) (hm : s.lm.content = none)
    (r : Reg) : pendingThrough s r = false := by
  have hcount := h.scoreboard r
  rw [writersInFlight, Latch.writes_none hx, Latch.writes_none hm] at hcount
  cases hw : s.lw.content with
  | none => simpa [pendingThrough_of_empty hw, Latch.writes_none hw] using hcount
  | some c =>
    rw [pendingThrough_of_some hw]
    rw [Latch.writes_some hw] at hcount
    by_cases hd : destination c.instr = some r
    · exact if_pos hd
    · have hne : (destination c.instr == some r) = false := by simpa using hd
      simpa [hd, hne] using hcount

theorem Inv.stallSignal_eq_false {s : State} {e : Executed} (h : s.Inv) (hx : s.lx.content = none)
    (hm : s.lm.content = none) : stallSignal s e = false := by
  have hop (o : Option Reg) : operandPending s o = false := by
    cases o with
    | none => rfl
    | some r => exact h.pendingThrough_eq_false hx hm r
  unfold stallSignal
  cases decodeInput s e <;> simp [hop]

/-- An instruction in `LD` behind an empty `LX` and an empty `LM` is issued. -/
theorem Simulates.reaches_of_ld {s : State} {q : SequentialState} (h : s.Simulates q) (hx : s.lx.content = none)
    (hm : s.lm.content = none) (hd : s.ld.content.isSome = true) :
    ∃ k t, RunsTo k s t ∧ t.Simulates q ∧ t.lx.content.isSome = true := by
  obtain ⟨hstep, hsim⟩ := h.bubble hx
  refine exists_runsTo_trans (runsTo_of_step hstep) ⟨0, _, rfl, hsim, ?_⟩
  rw [lx_normalEdge, issued_of_no_stall (h.inv.stallSignal_eq_false hx hm), decodeInput_of_not_taken rfl,
    Option.isSome_map]
  exact hd

/-- A tick empties `LM` behind an empty `LX`, so Decode stalls at most once. -/
theorem Simulates.reaches_of_ld_stalled {s : State} {q : SequentialState} (h : s.Simulates q)
    (hx : s.lx.content = none) (hd : s.ld.content.isSome = true) :
    ∃ k t, RunsTo k s t ∧ t.Simulates q ∧ t.lx.content.isSome = true := by
  obtain ⟨hstep, hsim⟩ := h.bubble hx
  refine exists_runsTo_trans (runsTo_of_step hstep) ?_
  have hinput : decodeInput s {} = s.ld.content := decodeInput_of_not_taken rfl
  cases hst : stallSignal s {} with
  | true =>
    obtain ⟨hx', hd'⟩ := normalEdge_of_stall hst
    have hm' : (normalEdge s {}).lm.content = none := by
      change nextLM s {} = none
      rw [nextLM_eq, hx, Option.map_none]
    exact hsim.reaches_of_ld hx' hm' (by rw [hd', hinput]; exact hd)
  | false =>
    refine ⟨0, _, rfl, hsim, ?_⟩
    rw [lx_normalEdge, issued_of_no_stall hst, hinput, Option.isSome_map]
    exact hd

/-- With an empty front fetch is open at the sequential machine's next record (R104, R105). -/
theorem Simulates.ld_of_empty_front {s : State} {q : SequentialState} {w : RecordWord} (h : s.Simulates q)
    (hx : s.lx.content = none) (hd : s.ld.content = none) (hw : s.recordAt q.apc = some w) :
    (normalEdge s {}).ld.content.isSome = true := by
  have hpc : s.pc = q.apc := by rw [← h.apc, frontPc_of_bubble hx, decodePc, hd]; rfl
  rw [← hpc] at hw
  have hfen : s.fen = true := by
    by_contra hshut
    rcases h.shutForReason (by simpa using hshut) with hnone | hld | hlx
    · rw [hnone] at hw
      cases hw
    · exact not_holdsHalt_of_empty hd hld
    · exact not_holdsHalt_of_empty hx hlx
  have hst : stallSignal s {} = false := stallSignal_of_no_input (by rw [decodeInput_of_not_taken rfl, hd])
  obtain ⟨r, hr⟩ := h.inv.exists_decodeRecord hw
  rw [ld_normalEdge_of_no_stall hst]
  simp [fetchedNow, fetches, hfen, hst, portRecord, hw, hr]

theorem Simulates.reaches_lx {s : State} {q : SequentialState} {w : RecordWord} (h : s.Simulates q)
    (hw : s.recordAt q.apc = some w) : ∃ k t, RunsTo k s t ∧ t.Simulates q ∧ t.lx.content.isSome = true := by
  cases hx : s.lx.content with
  | some c => exact ⟨0, s, rfl, h, by rw [hx]; rfl⟩
  | none =>
    cases hd : s.ld.content with
    | some c => exact h.reaches_of_ld_stalled hx (by rw [hd]; rfl)
    | none =>
      obtain ⟨hstep, hsim⟩ := h.bubble hx
      have hd' := h.ld_of_empty_front hx hd hw
      have hst : stallSignal s {} = false := stallSignal_of_no_input (by rw [decodeInput_of_not_taken rfl, hd])
      have hx' : (normalEdge s {}).lx.content = none := by
        rw [lx_normalEdge, issued_of_no_stall hst, decodeInput_of_not_taken rfl, hd, Option.map_none]
      exact exists_runsTo_trans (runsTo_of_step hstep) (hsim.reaches_of_ld_stalled hx' hd')

/-- The pipeline keeps up with every step of the sequential machine that finds a record. -/
theorem Simulates.reaches_sequentialStep {s : State} {q : SequentialState} (h : s.Simulates q)
    (hns : (sequentialStep s.params s.table q).status ≠ .stuck) :
    ∃ k t, RunsTo k s t ∧ t.Corresponds (sequentialStep s.params s.table q) := by
  cases hw : s.recordAt q.apc with
  | none =>
    rw [recordAt] at hw
    simp [sequentialStep, h.sequentialRunning, hw] at hns
  | some w =>
    obtain ⟨k, u, hu, hsim, hx⟩ := h.reaches_lx hw
    obtain ⟨hparams, htable⟩ := runsTo_params_table hu
    obtain ⟨t, ht, hcorr⟩ := hsim.step_of_lx hx
    rw [hparams, htable] at hcorr
    exact ⟨k + 1, t, runsTo_trans hu (runsTo_of_step ht), hcorr⟩

end State

/-! ### Runs of the sequential machine -/

theorem sequentialStep_of_stopped {p : Params} {table : List RecordWord} {q : SequentialState}
    (h : q.status ≠ .running) : sequentialStep p table q = q := if_neg h

theorem sequentialRun_of_stopped {p : Params} {table : List RecordWord} {q : SequentialState}
    (h : q.status ≠ .running) (n : Nat) : sequentialRun p table n q = q := by
  induction n with
  | zero => rfl
  | succ n ih => rw [sequentialRun, sequentialStep_of_stopped h, ih]

/-- Wherever the sequential machine's run gets, unless it gets stuck, the pipeline's gets too. -/
theorem State.Simulates.reaches_sequentialRun {s : State} {q : SequentialState} (h : s.Simulates q) (n : Nat)
    (hns : (sequentialRun s.params s.table n q).status ≠ .stuck) :
    ∃ k t, RunsTo k s t ∧ t.Corresponds (sequentialRun s.params s.table n q) := by
  induction n generalizing s q with
  | zero => exact ⟨0, s, rfl, (corresponds_of_running h.sequentialRunning).2 h⟩
  | succ n ih =>
    rw [sequentialRun] at hns ⊢
    have hstep : (sequentialStep s.params s.table q).status ≠ .stuck := by
      intro hstuck
      rw [sequentialRun_of_stopped (by rw [hstuck]; nofun)] at hns
      exact hns hstuck
    obtain ⟨k, t, ht, hcorr⟩ := h.reaches_sequentialStep hstep
    by_cases hrun : (sequentialStep s.params s.table q).status = .running
    · obtain ⟨hparams, htable⟩ := runsTo_params_table ht
      have hsim := (corresponds_of_running hrun).1 hcorr
      rw [← hparams, ← htable] at hsim hns ⊢
      exact exists_runsTo_trans ht (ih hsim hns)
    · rw [sequentialRun_of_stopped hrun]
      exact ⟨k, t, ht, hcorr⟩

/-! ### The start of a run -/

theorem State.simulates_initial {params : Params} {table : List RecordWord} (h : (State.initial params table).Inv) :
    (State.initial params table).Simulates (SequentialState.initial params) where
  inv := h
  x := rfl
  dmem := rfl
  z := rfl
  retired := rfl
  running := rfl
  sequentialRunning := rfl
  noHaltAhead := ⟨State.not_holdsHalt_of_empty rfl, State.not_holdsHalt_of_empty rfl⟩
  apc := rfl
  consecutive _ hc := nomatch hc
  operands _ hc := nomatch hc
  shutForReason := nofun

/-- A load starts both machines in simulating states. -/
theorem simulates_of_initializeRun {table : List RecordWord} {pcBase : Int} {words : Nat} {init : Option (List Word)}
    {s : State} (h : initializeRun table pcBase words init = .ok s) :
    s.Simulates (SequentialState.initial s.params) ∧ s.table = table := by
  have hinv := initializeEstablishesInvariant table pcBase words init s h
  obtain ⟨_, m, _, rfl⟩ := initializeRun_eq_ok.1 h
  exact ⟨State.simulates_initial hinv, rfl⟩

/-! ### The end of a run -/

/-- Once HALT has retired everything ahead of it has, and nothing was behind it. -/
structure State.HaltsAs (t : State) (q : SequentialState) : Prop extends t.Agrees q where
  halted : t.status = .halted
  pc : t.pc = nextPc q.apc

/-- A draining pipeline fetches and issues nothing (R104). -/
theorem State.Drains.tick {s : State} {q : SequentialState} (h : s.Drains q) :
    step s = .next (normalEdge s {}) ∧ (normalEdge s {}).Agrees q ∧
      ((normalEdge s {}).lx.content = none ∧ (normalEdge s {}).ld.content = none) ∧
      (normalEdge s {}).pc = nextPc q.apc := by
  obtain ⟨hx, hd⟩ := h.bubble
  have hfen : s.fen = false := by
    rcases h.haltAhead with hm | hw
    · exact (h.inv.haltInMemory hm).1
    · exact (h.inv.haltInWriteback hw).1
  have hinput : decodeInput s {} = none := by rw [State.decodeInput_of_not_taken rfl, hd]
  have hst := State.stallSignal_of_no_input hinput
  have hnow : fetchedNow s {} = none := by simp [fetchedNow, fetches, hfen]
  refine ⟨?_, h.toAgrees.bubble h.running hx, ⟨?_, ?_⟩, ?_⟩
  · rw [h.inv.step_eq, clockedEdge_of_ok h.running (executeSignals_of_empty hx)]
  · rw [State.lx_normalEdge, State.issued_of_no_stall hst, hinput, Option.map_none]
  · rw [State.ld_normalEdge_of_no_stall hst, hnow, Option.map_none]
  · rw [State.pc_normalEdge_of_not_fetched rfl hnow, h.pc]

/-- From `LW` HALT retires in one tick. -/
theorem State.Drains.reaches_of_lw {s : State} {q : SequentialState} (h : s.Drains q) (hw : s.lw.holdsHalt) :
    ∃ k t, RunsTo k s t ∧ t.HaltsAs q := by
  obtain ⟨hstep, hagree, _, hpc⟩ := h.tick
  exact ⟨1, _, runsTo_of_step hstep, { hagree with halted := State.status_normalEdge_of_halt hw, pc := hpc }⟩

/-- From `LM` it takes one tick more. -/
theorem State.Drains.reaches_halted {s : State} {q : SequentialState} (h : s.Drains q) :
    ∃ k t, RunsTo k s t ∧ t.HaltsAs q := by
  by_cases hw : s.lw.holdsHalt
  · exact h.reaches_of_lw hw
  · have hm : s.lm.holdsHalt := h.haltAhead.resolve_right hw
    have hw' : (normalEdge s {}).lw.holdsHalt := State.holdsHalt_lw_normalEdge.2 hm
    obtain ⟨hstep, hagree, hbubble, hpc⟩ := h.tick
    have hdrains : (normalEdge s {}).Drains q := { hagree with
      running := State.status_normalEdge_of_no_halt hw
      haltAhead := .inr hw'
      bubble := hbubble
      pc := hpc }
    exact exists_runsTo_trans (runsTo_of_step hstep) (hdrains.reaches_of_lw hw')

/-- With nothing in flight the data are final (R182). -/
theorem State.HaltsAs.data {t : State} {q : SequentialState} (h : t.HaltsAs q) :
    t.x = q.x ∧ t.dmem = q.dmem ∧ t.retired = BitVec.ofNat 64 q.executed := by
  obtain ⟨_, ⟨_, hm, hw⟩, _, _⟩ := h.inv.haltedDrained h.halted
  have hnext : nextLW t = none := by rw [State.nextLW_eq h.inv.dmemCanonical, hm, Option.map_none]
  refine ⟨?_, ?_, ?_⟩
  · rw [← h.x, State.finalX, hnext, State.backEdge_x, hw]
    rfl
  · rw [← h.dmem, State.finalMem, hnext, State.backEdge_dmem, hw]
    rfl
  · rw [← h.retired, State.finalRetired, hm, State.backEdge_retired, hw]
    rfl

/-! ### The statements -/

/-- Settles O32: the run of the pipeline reaches the execution of the sequential machine's HALT, and drains. -/
theorem pipelineHaltsAsTheSequentialMachine : Obligations.PipelineHaltsAsTheSequentialMachine := by
  rintro table pcBase words init s n q hinit rfl hq
  obtain ⟨hsim, rfl⟩ := simulates_of_initializeRun hinit
  obtain ⟨j, u, hu, hcorr⟩ := hsim.reaches_sequentialRun n (by rw [hq]; nofun)
  obtain ⟨k, t, ht, hhalts⟩ :=
    exists_runsTo_trans hu ((State.corresponds_of_halted hq).1 hcorr).reaches_halted
  obtain ⟨hx, hd, hretired⟩ := hhalts.data
  obtain ⟨hld, hback, _, hpend⟩ := hhalts.inv.haltedDrained hhalts.halted
  exact ⟨k, t, ht, hhalts.halted, hx, hhalts.z, hd, hretired, hpend, hld, hback, hhalts.pc⟩

/-- Settles O33: the run of the pipeline reaches the sequential machine's fault. -/
theorem pipelineFaultsAsTheSequentialMachine : Obligations.PipelineFaultsAsTheSequentialMachine := by
  rintro table pcBase words init s n q kind pc op hinit rfl hq
  obtain ⟨hsim, rfl⟩ := simulates_of_initializeRun hinit
  obtain ⟨k, t, ht, hcorr⟩ := hsim.reaches_sequentialRun n (by rw [hq]; nofun)
  obtain ⟨hstatus, hfault, hz, u, hu, hx, hd⟩ := (State.corresponds_of_faulted hq).1 hcorr
  exact ⟨k, t, u, ht, hstatus, hfault, hz, hu, hx, hd⟩

/-- While the sequential machine runs on, or once it is stuck, every tick of the pipeline corresponds to it again. -/
theorem State.Simulates.runs_on {s : State} {q : SequentialState} (h : s.Simulates q)
    (hq : ∀ n, (sequentialRun s.params s.table n q).status = .running ∨
      (sequentialRun s.params s.table n q).status = .stuck) (k : Nat) :
    ∃ t, RunsTo k s t ∧ t.status = .running := by
  induction k generalizing s q with
  | zero => exact ⟨s, rfl, h.running⟩
  | succ k ih =>
    obtain ⟨u, hu, hcorr⟩ := h.step
    obtain ⟨hparams, htable⟩ := step_params_table hu
    obtain ⟨q', hsim, hq'⟩ : ∃ q', u.Simulates q' ∧
        ∀ n, (sequentialRun u.params u.table n q').status = .running ∨
          (sequentialRun u.params u.table n q').status = .stuck := by
      rw [hparams, htable]
      rcases hcorr with hcorr | hcorr
      · exact ⟨q, (State.corresponds_of_running h.sequentialRunning).1 hcorr, hq⟩
      · refine ⟨_, ?_, fun n => hq (n + 1)⟩
        rcases hq 1 with hrun | hstuck
        · exact (State.corresponds_of_running hrun).1 hcorr
        · exact (State.not_corresponds_of_stuck hstuck hcorr).elim
    obtain ⟨t, ht, hrun⟩ := ih hsim hq'
    exact ⟨t, runsTo_succ.2 ⟨u, hu, ht⟩, hrun⟩

/-- Settles O34: a load starts both machines in simulating states, and no tick leaves the simulation. -/
theorem pipelineRunsOnAsTheSequentialMachine : Obligations.PipelineRunsOnAsTheSequentialMachine := by
  intro table pcBase words init s hinit hq k
  obtain ⟨hsim, rfl⟩ := simulates_of_initializeRun hinit
  exact hsim.runs_on hq k

end Sys2Proof.Machine

/-! ## Whole ticks of a running machine (R80, R106)

Writeback and Memory change nothing that Execute, Decode and Fetch look at but the registers, the scoreboard and the
stall flags; so a tick is a fault of the instruction in `LX`, or the completed Execute phase and then Decode and
Fetch. -/

namespace Sys2Proof.Machine

/-! ### After Writeback and Memory -/

/-- What Writeback and Memory leave as it was, and that they empty `LM`. -/
structure State.KeepsFront (v s : State) : Prop where
  z : v.z = s.z
  pc : v.pc = s.pc
  clk : v.clk = s.clk
  fen : v.fen = s.fen
  last : v.lf.last = s.lf.last
  ld : v.ld.content = s.ld.content
  lx : v.lx = s.lx
  lm : v.lm.content = none
  params : v.params = s.params
  table : v.table = s.table

theorem keepsFront_of_back {s u v : State} (hu : wbPhase s = .next u) (hv : memPhase u = .next v) : v.KeepsFront s := by
  obtain ⟨hz, hpc, hclk, _, hfen, _, hlast, hld, hlx, _, _, hparams, htable⟩ := wbPhase_fields hu
  obtain ⟨hframe, hlm, _⟩ := memPhase_fields hv
  rw [hframe]
  exact ⟨hz, hpc, hclk, hfen, hlast, hld, hlx, by rw [hlm], hparams, htable⟩

theorem State.KeepsFront.executeSignals_eq {s v : State} (h : v.KeepsFront s) :
    executeSignals v = executeSignals s := by
  simp only [executeSignals, h.lx, h.params, h.z]

/-- The status before Execute is not `Faulted` (R89). -/
theorem status_of_back {s u v : State} (hs : s.status = .running) (hu : wbPhase s = .next u)
    (hv : memPhase u = .next v) : v.status ≠ .faulted := by
  obtain ⟨hframe, _, _⟩ := memPhase_fields hv
  rw [hframe]
  rcases State.wbPhase_status hu with h | h <;> simp [h, hs]

/-- A running machine's step: after Writeback and Memory the Execute stage's fault, or the completed instruction and
then Decode, Fetch and the end of tick. -/
theorem step_cases_of_running {s t : State} (hs : s.status = .running) (h : step s = .next t) :
    ∃ u v, wbPhase s = .next u ∧ memPhase u = .next v ∧
      ((∃ k c, executeSignals s = .fault k ∧ s.lx.content = some c ∧ t = v.clearRedirect.enterFault k c) ∨
       (∃ e f, executeSignals s = .ok e ∧ fetchPhase (decodePhase (v.completeExecute e)) = .next f ∧
        t = f.endTick ∧ t.status = v.status)) := by
  rcases step_cases h with ⟨hns, _⟩ | ⟨u, v, w, _, hu, hv, hex, hend⟩
  · exact (hns hs).elim
  have hkeep := keepsFront_of_back hu hv
  have hstatus := status_of_back hs hu hv
  refine ⟨u, v, hu, hv, ?_⟩
  cases hx : executeSignals s with
  | fault k =>
    rw [← hkeep.executeSignals_eq] at hx
    obtain ⟨c, hc, hex'⟩ := exPhase_of_fault hx
    cases hex'.symm.trans hex
    rw [hkeep.lx] at hc
    rcases hend with ⟨_, rfl⟩ | ⟨hne, _⟩
    · exact .inl ⟨k, c, rfl, hc, rfl⟩
    · exact (hne rfl).elim
  | ok e =>
    rw [← hkeep.executeSignals_eq] at hx
    cases (exPhase_of_ok hkeep.lm hx).symm.trans hex
    rcases hend with ⟨hf, _⟩ | ⟨_, f, hf, rfl⟩
    · exact (hstatus hf).elim
    · refine .inr ⟨e, f, rfl, hf, rfl, ?_⟩
      rw [fetchPhase_fields hf, decodePhase_fields]
      rfl

/-- A tick that does not end in `Faulted` raised no fault. -/
theorem step_of_no_fault {s t : State} (hs : s.status = .running) (h : step s = .next t) (hne : t.status ≠ .faulted) :
    ∃ u v e f, wbPhase s = .next u ∧ memPhase u = .next v ∧ executeSignals s = .ok e ∧
      fetchPhase (decodePhase (v.completeExecute e)) = .next f ∧ t = f.endTick := by
  obtain ⟨u, v, hu, hv, ⟨k, c, _, _, rfl⟩ | ⟨e, f, he, hf, ht, _⟩⟩ := step_cases_of_running hs h
  · exact (hne rfl).elim
  · exact ⟨u, v, e, f, hu, hv, he, hf, ht⟩

/-- Settles O15: only the end of tick counts, and a fault cuts it off after Execute has cleared `REDIR`. -/
theorem clockCountsCompletedTicks : Obligations.ClockCountsCompletedTicks := by
  intro s t hs h
  obtain ⟨u, v, hu, hv, ⟨k, c, _, _, rfl⟩ | ⟨e, f, _, hf, rfl, hstatus⟩⟩ := step_cases_of_running hs h
  · exact ⟨fun hne => (hne rfl).elim, fun _ => (keepsFront_of_back hu hv).clk, rfl⟩
  · have hclk : f.endTick.clk = s.clk + 1#64 := by
      rw [fetchPhase_fields hf, decodePhase_fields]
      exact congrArg (· + 1#64) (keepsFront_of_back hu hv).clk
    refine ⟨fun _ => hclk, fun hfault => ?_, rfl⟩
    exact (status_of_back hs hu hv (hstatus.symm.trans hfault)).elim

/-! ### A fault -/

theorem executeAnswer_of_raisesFault {n : Nat} {z : Bool} {c : InstructionContext} {kind : FaultKind}
    (h : Statements.RaisesFault n c kind) : executeAnswer n z c.instr c = .fault kind := by
  have outOfRange {base off : Word} {result : Option Word} {ea : Int} (hea : ea = base.toInt + off.toInt)
      (hr : ea < 0 ∨ (n : Int) ≤ ea) : addressAnswer n base off result = .fault .address := by
    subst hea
    refine if_neg ?_
    rw [addressInRange, effectiveAddress, Bool.and_eq_true, decide_eq_true_eq, decide_eq_true_eq]
    omega
  rcases h with ⟨rfl, ⟨rd, rs1, rs2, hi⟩, hz⟩ | ⟨rfl, ea, hr, h⟩
  · rw [hi]
    exact if_pos hz
  · rcases h with ⟨_, _, _, hi, hea⟩ | ⟨_, _, _, hi, hea⟩ | ⟨_, _, _, hi, hea⟩ | ⟨_, _, _, hi, hea⟩
    all_goals
      rw [hi]
      exact outOfRange hea hr

/-- Settles O24: the fault leaves the state of the Memory phase but for `REDIR`, the status and the fault record, and no
later phase runs. -/
theorem faultStopsTheTick : Obligations.FaultStopsTheTick := by
  intro s u v c kind hs hu hv hc h
  rw [step_of_lx hs hu hv hc, exec_of_fault (s := v.clearRedirect) hc (executeAnswer_of_raisesFault h), andThen_next,
    afterExecute_of_faulted rfl]
  rfl

/-! ### Where the instructions go -/

/-- Reading, executing, loading change no instruction's identity (R20). -/
theorem memPhase_lw_identity {s u v : State} (hu : wbPhase s = .next u) (hv : memPhase u = .next v) :
    v.lw.content.map Statements.identity = s.lm.content.map Statements.identity := by
  obtain ⟨_, _, _, _, _, _, _, _, _, hlm, hlw, _, _⟩ := wbPhase_fields hu
  rw [← hlm]
  rcases memPhase_cases hv with ⟨hm, rfl⟩ | ⟨c, hm, _, _, rfl⟩ | ⟨c, hm, _, rfl⟩
  · rw [hm, hlw]
  · rw [hm]
    rfl
  · rw [hm]
    rfl

theorem nextLM_identity (s : State) (e : Executed) :
    (nextLM s e).map Statements.identity = s.lx.content.map Statements.identity := by
  unfold nextLM
  cases s.lx.content <;> rfl

/-- Decode behind an empty `LX`: a bubble, with `LD` as it was, or the instruction of `LD` issued. -/
theorem decodePhase_lx_ld {s : State} (hx : s.lx.content = none) :
    ((decodePhase s).lx.content = none ∧ (decodePhase s).ld.content = s.ld.content) ∨
    (∃ c, s.ld.content = some c ∧ (decodePhase s).lx.content = some (s.readOperands c) ∧
      (decodePhase s).ld.content = none) := by
  rcases decodePhase_cases s with ⟨_, hd⟩ | ⟨c, _, _, hd⟩ | ⟨c, hc, _, hd⟩ <;> rw [hd]
  · exact .inl ⟨hx, rfl⟩
  · exact .inl ⟨hx, rfl⟩
  · exact .inr ⟨c, hc, rfl, rfl⟩

section
variable {v f : State} {e : Executed}

theorem ld_completeExecute_of_not_taken (ht : e.taken = none) : (v.completeExecute e).ld = v.ld := by
  simp [State.completeExecute, ht]

theorem ld_completeExecute_of_taken {target : Word} (ht : e.taken = some target) :
    (v.completeExecute e).ld = Latch.empty := by
  simp [State.completeExecute, ht]

/-- Behind a completed Execute Fetch leaves `LD` as Decode does, or, when no branch was taken, fills an empty `LD` with
the record at the pc of before the tick. -/
theorem fetchPhase_ld_of_completeExecute (hf : fetchPhase (decodePhase (v.completeExecute e)) = .next f) :
    f.ld.content = (decodePhase (v.completeExecute e)).ld.content ∨
    ((decodePhase (v.completeExecute e)).ld.content = none ∧
      ∃ w r, v.recordAt v.pc = some w ∧ decodeRecord w = .ok r ∧
        f.ld.content = some (fetchedContext v.pc r)) := by
  rcases fetchPhase_cases hf with ⟨_, rfl⟩ | ⟨_, _, _, _, rfl⟩ | ⟨w, r, hredir, _, hd, hw, hdec, rfl⟩
  · exact .inl rfl
  · exact .inl rfl
  · rw [decodePhase_fields] at hredir hw
    have ht : e.taken = none := Option.isSome_eq_false_iff.1 hredir |> Option.isNone_iff_eq_none.1
    have hpc : (decodePhase (v.completeExecute e)).pc = v.pc := by
      rw [decodePhase_fields]
      simp [State.completeExecute, ht]
    have hat : v.recordAt v.pc = some w := by
      rw [← hw]
      simp [State.completeExecute, ht, State.recordAt]
    exact .inr ⟨hd, w, r, hat, hdec, by rw [State.fetched_ld, hpc]⟩

/-- Decode and Fetch leave `LW` and `LM`, and Fetch leaves `LX`. -/
theorem back_of_completeExecute (hf : fetchPhase (decodePhase (v.completeExecute e)) = .next f) :
    f.lw = v.lw ∧ f.lm.content = nextLM v e ∧ f.lx = (decodePhase (v.completeExecute e)).lx := by
  rw [fetchPhase_fields hf]
  refine ⟨?_, ?_, rfl⟩ <;> rw [decodePhase_fields] <;> rfl

end

/-- Settles O17: each latch follows from the phase that fills it. -/
theorem instructionsAdvanceOneStagePerTick : Obligations.InstructionsAdvanceOneStagePerTick := by
  intro s t hs h hne
  obtain ⟨u, v, e, f, hu, hv, _, hf, rfl⟩ := step_of_no_fault hs h hne
  have hkeep := keepsFront_of_back hu hv
  obtain ⟨hlw, hlm, hlx⟩ := back_of_completeExecute hf
  have hadvance : f.lw.content.map Statements.identity = s.lm.content.map Statements.identity ∧
      f.lm.content.map Statements.identity = s.lx.content.map Statements.identity :=
    ⟨by rw [hlw, memPhase_lw_identity hu hv], by rw [hlm, nextLM_identity, hkeep.lx]⟩
  have hld : (v.completeExecute e).ld.content = none ∨ (v.completeExecute e).ld.content = s.ld.content := by
    cases ht : e.taken with
    | none => exact .inr (by rw [ld_completeExecute_of_not_taken ht, hkeep.ld])
    | some target => exact .inl (by rw [ld_completeExecute_of_taken ht]; rfl)
  have hdecode := decodePhase_lx_ld (s := v.completeExecute e) rfl
  refine ⟨hadvance.1, hadvance.2, ?_, ?_⟩
  · change f.lx.content = none ∨ f.lx.content.map _ = _
    rw [hlx]
    rcases hdecode with ⟨hx, _⟩ | ⟨c, hc, hx, _⟩
    · exact .inl hx
    · refine .inr ?_
      rw [hx, ← hld.resolve_left (by rw [hc]; nofun), hc]
      rfl
  · change f.ld.content = none ∨ (f.ld.content = _ ∧ f.lx.content = none) ∨ _
    rcases fetchPhase_ld_of_completeExecute hf with hkept | ⟨_, w, r, hw, hr, hfetched⟩
    · rw [hkept, hlx]
      rcases hdecode with ⟨hx, hd⟩ | ⟨c, _, _, hd⟩
      · rw [hd, hx]
        exact hld.imp_right fun h => .inl ⟨h, rfl⟩
      · exact .inl hd
    · rw [State.recordAt, hkeep.params, hkeep.table, hkeep.pc] at hw
      rw [hkeep.pc] at hfetched
      exact .inr (.inr ⟨w, r, hw, hr, hfetched⟩)

/-! ### Taken branches -/

/-- Only a branch whose condition holds is taken (R171, R172). -/
theorem branch_of_taken {n : Nat} {z : Bool} {i : Instr} {c : InstructionContext} {e : Executed}
    (h : executeAnswer n z i c = .ok e) (ht : e.taken.isSome = true) :
    ∃ imm, (i = .bz imm ∧ z = true) ∨ (i = .bnz imm ∧ z = false) := by
  have address {base off : Word} {result : Option Word} (h : addressAnswer n base off result = .ok e) : False := by
    obtain ⟨_, rfl⟩ := addressAnswer_eq_ok h
    cases ht
  cases i with
  | bz imm =>
    cases h
    cases z
    · cases ht
    · exact ⟨imm, .inl ⟨rfl, rfl⟩⟩
  | bnz imm =>
    cases h
    cases z
    · exact ⟨imm, .inr ⟨rfl, rfl⟩⟩
    · cases ht
  | div =>
    obtain ⟨_, h⟩ := divUnit_eq_ok h
    cases h
    cases ht
  | load => exact (address h).elim
  | store => exact (address h).elim
  | ldr => exact (address h).elim
  | str => exact (address h).elim
  | _ =>
    cases h
    cases ht

/-- Settles O55: without a taken branch `LD` reaches Decode as it was. -/
theorem withoutTakenBranchDecodeIssuesOrKeeps : Obligations.WithoutTakenBranchDecodeIssuesOrKeeps := by
  intro s t c hs h hne hc hbranch
  obtain ⟨u, v, e, f, hu, hv, he, hf, rfl⟩ := step_of_no_fault hs h hne
  have hkeep := keepsFront_of_back hu hv
  obtain ⟨_, _, hlx⟩ := back_of_completeExecute hf
  have ht : e.taken = none := by
    by_contra htaken
    cases hb : s.lx.content with
    | none =>
      rw [executeSignals_of_empty hb] at he
      cases he
      exact htaken rfl
    | some b =>
      rw [executeSignals_of_some hb] at he
      obtain ⟨imm, h⟩ := branch_of_taken he (Option.isSome_iff_ne_none.2 htaken)
      exact hbranch b imm hb h
  have hld : (v.completeExecute e).ld.content = some c := by
    rw [ld_completeExecute_of_not_taken ht, hkeep.ld, hc]
  change f.lx.content.map _ = _ ∨ f.ld.content = _ ∧ f.lx.content = none
  rw [hlx]
  rcases decodePhase_lx_ld (s := v.completeExecute e) rfl with ⟨hx, hd⟩ | ⟨d, hd, hx, _⟩
  · rw [hld] at hd
    rcases fetchPhase_ld_of_completeExecute hf with hkept | ⟨hempty, _⟩
    · exact .inr ⟨hkept.trans hd, hx⟩
    · cases hd.symm.trans hempty
  · cases hld.symm.trans hd
    rw [hx]
    exact .inl rfl

/-- A branch whose condition holds is taken. -/
theorem executeSignals_of_taken {s : State} {c : InstructionContext} {imm : Word} (hc : s.lx.content = some c)
    (hb : (c.instr = .bz imm ∧ s.z = true) ∨ (c.instr = .bnz imm ∧ s.z = false)) :
    executeSignals s = .ok { taken := some (branchTarget c.pc imm) } := by
  rw [executeSignals_of_some hc]
  rcases hb with ⟨hi, hz⟩ | ⟨hi, hz⟩ <;> rw [hi, hz] <;> rfl

/-- With `LX` and `LD` empty a tick brings the record at the pc to `LD` (R104). -/
theorem step_fetches {s t : State} {r : Record} (hs : s.status = .running) (hx : s.lx.content = none)
    (hd : s.ld.content = none) (hfen : s.fen = true) (hr : portRecord s = some r) (h : step s = .next t) :
    t.ld = { content := some (fetchedContext s.pc r), stall := false } ∧ t.pc = nextPc s.pc := by
  obtain ⟨w, hw, hdec⟩ := portRecord_eq_some.1 hr
  have hsignals := executeSignals_of_empty hx
  obtain ⟨u, v, hu, hv, ⟨k, c, hk, _, _⟩ | ⟨e, f, he, hf, rfl, _⟩⟩ := step_cases_of_running hs h
  · cases hk.symm.trans hsignals
  · cases he.symm.trans hsignals
    have hkeep := keepsFront_of_back hu hv
    have hempty : (v.completeExecute {}).ld.content = none := hkeep.ld.trans hd
    have hopen : (v.completeExecute {}).fen = true := hkeep.fen.trans hfen
    have hat : (v.completeExecute {}).recordAt (v.completeExecute {}).pc = some w := by
      change recordIn v.params.pcBase v.table v.pc = some w
      rw [hkeep.params, hkeep.table, hkeep.pc]
      exact hw
    rw [decodePhase_of_empty hempty, fetchPhase_of_open rfl hopen hempty, State.fetchRecord_of_some hat hdec] at hf
    cases hf
    rw [← hkeep.pc]
    exact ⟨rfl, rfl⟩

/-- Settles O23: Execute empties `LD` and raises `REDIR`, so Decode and Fetch do nothing in the tick of the branch. -/
theorem takenBranchFlushesAndSuppressesOneFetch : Obligations.TakenBranchFlushesAndSuppressesOneFetch := by
  intro s t c imm hs hc hb h
  have hsignals := executeSignals_of_taken hc hb
  obtain ⟨u, v, hu, hv, ⟨k, _, hk, _, _⟩ | ⟨e, f, he, hf, rfl, _⟩⟩ := step_cases_of_running hs h
  · cases hk.symm.trans hsignals
  · cases he.symm.trans hsignals
    have hkeep := keepsFront_of_back hu hv
    rw [decodePhase_of_empty rfl, fetchPhase_of_redir rfl] at hf
    cases hf
    have hlm : nextLM v { taken := some (branchTarget c.pc imm) } = some c := by
      simp only [nextLM, hkeep.lx, hc]
      rfl
    refine ⟨rfl, rfl, rfl, rfl, ?_, rfl, hlm, hkeep.z, fun u r hrun hr hstep => ?_⟩
    · exact congrArg (FetchLatch.mk · false) hkeep.last
    · exact step_fetches hrun rfl rfl rfl hr hstep

/-! ### The frame of a tick -/

theorem wbPhase_eq_afterWB {s u : State} (h : wbPhase s = .next u) : u = s.afterWB := by
  have hchecked : ∀ c ∈ s.lw.content, storeClass c.instr = true → c.addrField < s.params.dmemWords := by
    intro c hc hst
    rw [wbPhase_of_some hc, andThen_eq_next] at h
    obtain ⟨w, hw, _⟩ := h
    rcases State.commitStore_cases hw with ⟨hno, _⟩ | ⟨_, ha, _⟩
    · exact (Bool.false_ne_true (hno.symm.trans hst)).elim
    · rw [State.commitRegister_fields] at ha
      exact of_decide_eq_true ha
  cases (State.wbPhase_eq hchecked).symm.trans h
  rfl

/-- Only Writeback commits: the registers and the memory after a tick are those with the instruction in `LW` committed
(R84, R87). -/
theorem step_commits {s t : State} (hs : s.status = .running) (h : step s = .next t) :
    t.x = commitX s.lw.content s.x ∧ t.dmem = commitMem s.lw.content s.dmem := by
  obtain ⟨u, v, hu, hv, hend⟩ := step_cases_of_running hs h
  obtain ⟨hframe, _, _⟩ := memPhase_fields hv
  have hux : u.x = commitX s.lw.content s.x := by rw [wbPhase_eq_afterWB hu, ← State.backEdge_x]; rfl
  have hud : u.dmem = commitMem s.lw.content s.dmem := by rw [wbPhase_eq_afterWB hu, ← State.backEdge_dmem]; rfl
  have hvx : v.x = u.x ∧ v.dmem = u.dmem := by rw [hframe]; exact ⟨rfl, rfl⟩
  rw [← hux, ← hud, ← hvx.1, ← hvx.2]
  rcases hend with ⟨k, c, _, _, rfl⟩ | ⟨e, f, _, hf, rfl, _⟩
  · exact ⟨rfl, rfl⟩
  · rw [fetchPhase_fields hf, decodePhase_fields]
    exact ⟨rfl, rfl⟩

/-- Only a flag-writing instruction in `LX` changes `Z` (R12, R90). -/
theorem step_z {s t : State} (hs : s.status = .running) (h : step s = .next t) :
    t.z = s.z ∨ ∃ c ∈ s.lx.content, writesFlag c.instr = true := by
  obtain ⟨u, v, hu, hv, ⟨k, c, _, _, rfl⟩ | ⟨e, f, he, hf, rfl, _⟩⟩ := step_cases_of_running hs h
  · exact .inl (keepsFront_of_back hu hv).z
  · have hz : f.endTick.z = e.newZ.getD s.z := by
      rw [fetchPhase_fields hf, decodePhase_fields, ← (keepsFront_of_back hu hv).z]
      rfl
    rw [hz]
    cases hc : s.lx.content with
    | none =>
      rw [executeSignals_of_empty hc] at he
      cases he
      exact .inl rfl
    | some c =>
      rw [executeSignals_of_some hc] at he
      by_cases hw : writesFlag c.instr = true
      · exact .inr ⟨c, rfl, hw⟩
      · obtain ⟨hnone, _⟩ := executeAnswer_ok he
        rw [hnone (Bool.eq_false_iff.2 hw)]
        exact .inl rfl

theorem reg_of_commitX_of_destination {s t : State} {o : Option InstructionContext} {c : InstructionContext} {r : Reg}
    (hx : t.x = commitX o s.x) (hc : o = some c) (hd : destination c.instr = some r) : t.reg r = c.resultField := by
  subst hc
  rw [commitX_of_destination hd] at hx
  simp [State.reg, hx]

theorem reg_of_commitX_of_no_destination {s t : State} {o : Option InstructionContext} {r : Reg}
    (hx : t.x = commitX o s.x) (hne : ∀ c ∈ o, destination c.instr ≠ some r) : t.reg r = s.reg r := by
  simp only [State.reg, hx, State.getElem_commitX hne]

/-- Settles O26: what Writeback commits, what Execute makes of `Z`, and nothing outside `Running`. -/
theorem tickChangesOnlyWhatItsInstructionsWrite : Obligations.TickChangesOnlyWhatItsInstructionsWrite := by
  intro s t h
  obtain ⟨hparams, htable⟩ := step_params_table h
  by_cases hs : s.status = .running
  · obtain ⟨hx, hd⟩ := step_commits hs h
    refine ⟨fun r => ?_, fun c rd _ hc hdest => reg_of_commitX_of_destination hx hc hdest, fun hwf a => ?_,
      step_z hs h, hparams, htable⟩
    · by_cases hr : ∃ c ∈ s.lw.content, destination c.instr = some r
      · obtain ⟨c, hc, hdest⟩ := hr
        exact .inr ⟨c, hc, hdest, reg_of_commitX_of_destination hx hc hdest⟩
      · exact .inl (reg_of_commitX_of_no_destination hx fun c hc hdest => hr ⟨c, hc, hdest⟩)
    · cases hw : s.lw.content with
      | none =>
        rw [hw] at hd
        exact .inl (congrArg (Memory.read · a) hd)
      | some c =>
        rw [hw] at hd
        cases hst : storeClass c.instr with
        | false =>
          rw [commitMem_of_not_store hst] at hd
          exact .inl (congrArg (Memory.read · a) hd)
        | true =>
          have hread : t.word a = if a = c.addrField then c.resultField else s.word a := by
            rw [State.word, hd, commitMem_of_store hst, Memory.read_write hwf]
            rfl
          rw [hread]
          by_cases ha : a = c.addrField
          · exact .inr ⟨c, rfl, hst, ha, if_pos ha⟩
          · exact .inl (if_neg ha)
  · cases (if_neg hs : step s = .next s).symm.trans h
    exact ⟨fun _ => .inl rfl, fun _ _ hrun => (hs hrun).elim, fun _ _ => .inl rfl, .inl rfl, rfl, rfl⟩

/-! ### Writeback -/

/-- Settles O18: every field of the state that Writeback leaves, from the two commits of the instruction in `LW`. -/
theorem writebackCommitsOneInstruction : Obligations.WritebackCommitsOneInstruction := by
  refine ⟨fun s h => wbPhase_of_empty h, fun s c hc haddr => ?_⟩
  have hwb : wbPhase s = .next s.afterWB := by
    refine State.wbPhase_eq fun d hd hst => ?_
    cases hc.symm.trans hd
    exact haddr hst
  have hreg (r : Reg) : s.afterWB.reg r = if destination c.instr = some r then c.resultField else s.reg r := by
    rw [← State.reg_commitRegister, State.commitRegister_eq hc]
    rfl
  have hmem : s.afterWB.dmem = commitMem s.lw.content s.dmem := State.backEdge_dmem s
  have hpend (r : Reg) : s.afterWB.pending r = if destination c.instr = some r then false else s.pending r := by
    rw [← State.pending_commitRegister, State.commitRegister_eq hc]
    rfl
  obtain ⟨hld, hlf⟩ : s.afterWB.ld.stall = ((destination c.instr).isNone && s.ld.stall) ∧
      s.afterWB.lf.stall = ((destination c.instr).isNone && s.lf.stall) := by
    have heq := State.commitRegister_eq hc
    rw [State.commitRegister_fields] at heq
    exact ⟨(congrArg (·.ld.stall) heq).symm, (congrArg (·.lf.stall) heq).symm⟩
  have hretired : s.afterWB.retired = s.retired + 1#64 := (State.backEdge_retired s).trans (by rw [hc]; rfl)
  have hstatus : s.afterWB.status = if c.instr = .halt then .halted else s.status := by
    simp [State.afterWB, State.afterMEM, haltRetires, hc]
  refine ⟨_, hwb, fun rd hrd => ⟨fun r => ?_, fun r => ?_, ?_, ?_⟩, fun hnone => ⟨?_, ?_, ?_, ?_⟩, rfl, rfl,
    fun hst => ?_, fun hst hwf a => ?_, fun hst => ?_, hretired, hstatus, rfl, rfl, rfl, rfl, rfl, rfl, rfl,
    rfl, rfl, rfl, rfl⟩
  · rw [hreg, hrd]
    simp only [Option.some_inj, @eq_comm _ r]
  · rw [hpend, hrd]
    simp only [Option.some_inj, @eq_comm _ r]
  · rw [hld, hrd]
    rfl
  · rw [hlf, hrd]
    rfl
  · exact State.x_ext fun r => by rw [hreg, hnone]; rfl
  · exact State.pend_ext fun r => by rw [hpend, hnone]; rfl
  · rw [hld, hnone]
    rfl
  · rw [hlf, hnone]
    rfl
  · rw [hmem, hc, commitMem_of_store hst]
  · rw [State.word, hmem, hc, commitMem_of_store hst, Memory.read_write hwf]
    rfl
  · rw [hmem, hc, commitMem_of_not_store hst]

end Sys2Proof.Machine

/-! ## A lone instruction from Execute to its retirement (R228)

`State.aloneInExecute` is the lone record in `LX`, two ticks on. The front of the pipeline is idle from there: `LD` is
empty and fetch is shut. So the third tick is Execute alone, the fourth Memory alone, the fifth Writeback alone, and
what they leave is written over `afterAlone`. -/

namespace Sys2Proof.Machine

open Statements

/-! ### Ticks with an idle front -/

theorem afterExecute_of_idle_front {s : State} (hs : s.status ≠ .faulted) (hd : s.ld.content = none)
    (hf : s.fen = false) : afterExecute s = .next s.endTick := by
  rw [afterExecute_of_not_faulted hs, decodePhase_of_empty hd, fetchPhase_of_shut hf, andThen_next]

/-- With nothing to execute, decode or fetch, a tick is Writeback and Memory. -/
theorem step_of_idle_front {s u v : State} (hs : s.status = .running) (hu : wbPhase s = .next u)
    (hv : memPhase u = .next v) (hx : s.lx.content = none) (hd : s.ld.content = none) (hf : s.fen = false) :
    step s = .next v.endTick := by
  have hkeep := keepsFront_of_back hu hv
  have hne := status_of_back hs hu hv
  rw [step, tick_of_running hs, hu, andThen_next, hv, andThen_next, exPhase_of_empty ((congrArg _ hkeep.lx).trans hx),
    andThen_next, afterExecute_of_idle_front (s := v.clearRedirect) hne (hkeep.ld.trans hd) (hkeep.fen.trans hf)]
  rfl

/-- With `LM`, `LW` and the front empty a tick is the completed Execute phase of an instruction that takes no branch. -/
theorem step_of_lx_alone_ok {s : State} {c : InstructionContext} {e : Executed} (hs : s.status = .running)
    (hr : s.redir = false) (hc : s.lx.content = some c) (hm : s.lm.content = none) (hw : s.lw.content = none)
    (hd : s.ld.content = none) (hf : s.fen = false)
    (he : executeAnswer s.params.dmemWords s.z c.instr c = .ok e) (ht : e.taken = none) :
    step s = .next (s.finishExecute c e).endTick := by
  rw [step_of_lx_alone hs hr hc hm hw, exec_of_ok hc he, andThen_next, afterExecute_of_idle_front] <;>
    simp [State.finishExecute_eq, ht, hs, hd, hf]

theorem memPhase_eq_loaded {s : State} {c : InstructionContext} (hc : s.lm.content = some c)
    (ha : loadClass c.instr = true → c.addrField < s.params.dmemWords) :
    memPhase s = .next (s.toWriteback (c.loaded s.dmem)) := by
  cases hl : loadClass c.instr with
  | true => simp only [memPhase_of_load hc hl (ha hl), InstructionContext.loaded, hl, if_true, State.word]
  | false => rw [memPhase_of_not_load hc hl, InstructionContext.loaded_of_not_load hl]

/-- What Writeback leaves, by what it commits (R83 to R89). -/
theorem State.afterWB_of_some {s : State} {c : InstructionContext} (hc : s.lw.content = some c) :
    s.afterWB = { s with
      x := commitX (some c) s.x
      pend := (s.commitRegister c).pend
      dmem := commitMem (some c) s.dmem
      retired := s.retired + 1#64
      status := if c.instr = .halt then .halted else s.status
      ld := { s.ld with stall := s.ld.stall && (destination c.instr).isNone }
      lf := { s.lf with stall := s.lf.stall && (destination c.instr).isNone }
      lw := { s.lw with content := none } } := by
  simp only [afterWB, afterMEM, backEdge, regWritePort, memWritePort, haltRetires, hc, commitX, commitMem,
    commitRegister, decide_eq_true_eq]
  cases destination c.instr <;> cases storeClass c.instr <;> rfl

namespace State

/-! ### The lone instruction, stage by stage -/

/-- The lone record's context with its operands read (R96). -/
def aloneContext (s : State) (r : Record) : InstructionContext := s.readOperands (fetchedContext s.pc r)

/-- What is committed for it when Execute answers `e` (R88, R90). -/
def aloneCompleted (s : State) (r : Record) (e : Executed) : InstructionContext :=
  ((s.aloneContext r).executed e).loaded s.dmem

/-- The lone record in `LM`, three ticks on. -/
def aloneInMemory (s : State) (r : Record) (e : Executed) : State :=
  { afterAlone s r with
    pend := (s.markDestination r.instr).pend
    z := e.newZ.getD s.z
    clk := s.clk + 3#64
    retired := s.retired
    lm := { content := some ((s.aloneContext r).executed e), stall := false } }

/-- The lone record in `LW`, four ticks on. -/
def aloneInWriteback (s : State) (r : Record) (e : Executed) : State :=
  { afterAlone s r with
    pend := (s.markDestination r.instr).pend
    z := e.newZ.getD s.z
    clk := s.clk + 4#64
    retired := s.retired
    lw := { content := some (s.aloneCompleted r e), stall := false } }

/-- The lone record retired, five ticks on. -/
def aloneRetired (s : State) (r : Record) (e : Executed) : State :=
  { afterAlone s r with
    x := commitX (some (s.aloneCompleted r e)) s.x
    z := e.newZ.getD s.z
    dmem := commitMem (some (s.aloneCompleted r e)) s.dmem
    status := if r.instr = .halt then .halted else s.status }

theorem aloneContext_instr (s : State) (r : Record) : (s.aloneContext r).instr = r.instr := rfl

theorem aloneCompleted_instr (s : State) (r : Record) (e : Executed) : (s.aloneCompleted r e).instr = r.instr := by
  rw [aloneCompleted, InstructionContext.loaded_instr, InstructionContext.executed_instr, aloneContext_instr]

/-- The address that Execute has computed is the one Writeback stores to. -/
theorem aloneCompleted_addrField (s : State) (r : Record) (e : Executed) :
    (s.aloneCompleted r e).addrField = ((s.aloneContext r).executed e).addrField := by
  unfold aloneCompleted InstructionContext.loaded
  split <;> rfl

variable {s : State} {r : Record} {e : Executed}

theorem aloneInExecute_eq (h : FetchedAlone s r) :
    s.aloneInExecute r = { afterAlone s r with
      pend := (s.markDestination r.instr).pend
      clk := s.clk + 2#64
      retired := s.retired
      lx := { content := some (s.aloneContext r), stall := false } } := by
  obtain ⟨_, _, hredir, _, hld, hlx, _, _, _, _, _⟩ := h
  have hpend : ((s.fetched r).endTick.markDestination r.instr).pend = (s.markDestination r.instr).pend :=
    pend_ext fun q => by simp only [pending_markDestination]; rfl
  rw [aloneInExecute, markDestination_fields, hpend]
  simp [afterAlone, aloneContext, endTick, shutFetch, issue, fetched, hredir, hld, hlx, Latch.empty, BitVec.add_assoc]

/-- The third tick: Execute hands the instruction to `LM` (R90). -/
theorem step_aloneInExecute (h : FetchedAlone s r)
    (he : executeAnswer s.params.dmemWords s.z r.instr (s.aloneContext r) = .ok e) (ht : e.taken = none) :
    step (s.aloneInExecute r) = .next (s.aloneInMemory r e) := by
  have heq := aloneInExecute_eq h
  obtain ⟨hs, _, hredir, _, hld, hlx, hlm, hlw, _, _, _⟩ := h
  obtain ⟨hstatus, hr, hx, hd, hm, hw, hz, hparams⟩ := s.aloneInExecute_fields r
  rw [← hz, ← hparams] at he
  rw [step_of_lx_alone_ok (c := s.aloneContext r) (hstatus.trans hs) hr hx (congrArg _ (hm.trans hlm))
    (congrArg _ (hw.trans hlw)) hd rfl he ht, finishExecute_eq, heq]
  simp [aloneInMemory, afterAlone, endTick, InstructionContext.executed, produced_eq_orElse, ht, hredir, hlm, hlx,
    Latch.empty, BitVec.add_assoc]

/-- The fourth tick: Memory hands it to `LW` (R88). -/
theorem step_aloneInMemory (h : FetchedAlone s r)
    (ha : loadClass r.instr = true → ((s.aloneContext r).executed e).addrField < s.params.dmemWords) :
    step (s.aloneInMemory r e) = .next (s.aloneInWriteback r e) := by
  obtain ⟨hs, _, hredir, _, hld, hlx, hlm, hlw, _, _, _⟩ := h
  have hwb : wbPhase (s.aloneInMemory r e) = .next (s.aloneInMemory r e) := wbPhase_of_empty (congrArg _ hlw)
  rw [step_of_idle_front (s := s.aloneInMemory r e) hs hwb (memPhase_eq_loaded rfl ha) (congrArg _ hlx)
    (congrArg _ hld) rfl]
  simp [aloneInMemory, aloneInWriteback, aloneCompleted, afterAlone, toWriteback, endTick, hredir, hlm, hlw,
    Latch.empty, BitVec.add_assoc]

/-- Committing the lone instruction clears the one bit that its issue set (R11). -/
theorem pend_commitRegister_aloneInWriteback (hpend : ∀ q, s.pending q = false) :
    ((s.aloneInWriteback r e).commitRegister (s.aloneCompleted r e)).pend = s.pend := by
  refine pend_ext fun q => ?_
  have hmark : (s.aloneInWriteback r e).pending q = (s.markDestination r.instr).pending q := rfl
  rw [pending_commitRegister, aloneCompleted_instr, hmark, pending_markDestination, hpend]
  split <;> rfl

/-- The fifth tick: Writeback commits and counts it (R84 to R89). -/
theorem step_aloneInWriteback (h : FetchedAlone s r)
    (ha : storeClass r.instr = true → ((s.aloneContext r).executed e).addrField < s.params.dmemWords) :
    step (s.aloneInWriteback r e) = .next (s.aloneRetired r e) := by
  obtain ⟨hs, _, hredir, _, hld, hlx, hlm, hlw, hpend, _, _⟩ := h
  have hwb : wbPhase (s.aloneInWriteback r e) = .next (s.aloneInWriteback r e).afterWB := by
    refine wbPhase_eq fun c hc hst => ?_
    cases hc
    rw [aloneCompleted_instr] at hst
    rw [aloneCompleted_addrField]
    exact ha hst
  rw [step_of_idle_front (s := s.aloneInWriteback r e) hs hwb (memPhase_of_empty (congrArg _ hlm)) (congrArg _ hlx)
    (congrArg _ hld) rfl, afterWB_of_some (c := s.aloneCompleted r e) rfl, pend_commitRegister_aloneInWriteback hpend,
    aloneCompleted_instr]
  simp [aloneInWriteback, aloneRetired, afterAlone, endTick, hredir, hld, hlw, Latch.empty, BitVec.add_assoc]

/-- A lone instruction that raises no fault and takes no branch, and whose address, if it has one, is in data memory,
retires in five ticks (R228). -/
theorem runsTo_aloneRetired (h : FetchedAlone s r)
    (he : executeAnswer s.params.dmemWords s.z r.instr (s.aloneContext r) = .ok e) (ht : e.taken = none)
    (ha : loadClass r.instr = true ∨ storeClass r.instr = true →
      ((s.aloneContext r).executed e).addrField < s.params.dmemWords) :
    RunsTo 5 s (s.aloneRetired r e) :=
  runsTo_succ.2 ⟨_, step_fetches_alone h, runsTo_succ.2 ⟨_, step_issues_alone h,
    runsTo_succ.2 ⟨_, step_aloneInExecute h he ht, runsTo_succ.2 ⟨_, step_aloneInMemory h fun hl => ha (.inl hl),
      runsTo_of_step (step_aloneInWriteback h fun hst => ha (.inr hst))⟩⟩⟩⟩

/-- What is left by a lone instruction that neither addresses memory nor halts. -/
theorem aloneRetired_of_no_memory (hl : loadClass r.instr = false) (hst : storeClass r.instr = false)
    (hh : r.instr ≠ .halt) :
    s.aloneRetired r e = { afterAlone s r with
      x := commitX (some ((s.aloneContext r).executed e)) s.x, z := e.newZ.getD s.z } := by
  have hsame : s.aloneCompleted r e = (s.aloneContext r).executed e := InstructionContext.loaded_of_not_load hl
  have hmem : commitMem (some ((s.aloneContext r).executed e)) s.dmem = s.dmem :=
    commitMem_of_not_store (c := (s.aloneContext r).executed e) hst s.dmem
  rw [aloneRetired, hsame, hmem, if_neg hh]
  rfl

theorem runsTo_of_no_memory (h : FetchedAlone s r)
    (he : executeAnswer s.params.dmemWords s.z r.instr (s.aloneContext r) = .ok e) (ht : e.taken = none)
    (hl : loadClass r.instr = false) (hst : storeClass r.instr = false) (hh : r.instr ≠ .halt) :
    RunsTo 5 s { afterAlone s r with
      x := commitX (some ((s.aloneContext r).executed e)) s.x, z := e.newZ.getD s.z } := by
  rw [← aloneRetired_of_no_memory hl hst hh]
  exact runsTo_aloneRetired h he ht (by simp [hl, hst])

/-! ### The operands of the lone instruction (R96) -/

theorem operand1_aloneContext {q : Reg} (h : source1 r.instr = some q) : (s.aloneContext r).operand1 = s.reg q := by
  have hv : (s.aloneContext r).v1 = some (s.reg q) := readOperand_of_some h _
  simp [InstructionContext.operand1, hv]

theorem operand2_aloneContext {q : Reg} (h : source2 r.instr = some q) : (s.aloneContext r).operand2 = s.reg q := by
  have hv : (s.aloneContext r).v2 = some (s.reg q) := readOperand_of_some h _
  simp [InstructionContext.operand2, hv]

end State
end Sys2Proof.Machine

/-! ## The integer ALU (R130 to R140, R150)

An arithmetic instruction is one whose Execute stage answers a value for its destination and the flag of that value.
Its hazard, its Execute phase and its retirement alone follow from that for all nine opcodes at once
(`IsArithmetic`); an opcode adds its encoding, its sources and its value. CMP answers the flag alone. -/

namespace Sys2Proof.Machine

open Statements

/-- `i` writes `value` of its operands to `rd` and sets `Z` from it (R130, R140). -/
structure IsArithmetic (i : Instr) (rd : Reg) (value : InstructionContext → Word) : Prop where
  source3 : source3 i = none
  destination : destination i = some rd
  notLoad : loadClass i = false
  answer : ∀ n z c, executeAnswer n z i c = arithmeticAnswer (value c)

namespace IsArithmetic

variable {i : Instr} {rd : Reg} {value : InstructionContext → Word}

theorem hazard (h : IsArithmetic i rd value) (s : State) :
    s.hazard i = (s.pendingOperand (source1 i) || s.pendingOperand (source2 i) || s.pending rd) := by
  simp [State.hazard, h.source3, h.destination, State.pendingOperand]

theorem executesTo (h : IsArithmetic i rd value) : ExecutesTo i value := by
  intro s c hc
  rw [exec_of_ok hc (h.answer _ _ c), State.finishExecute_eq]
  rfl

theorem retiresWriting (h : IsArithmetic i rd value) {result : State → Word}
    (hvalue : ∀ (s : State) (r : Record), r.instr = i → value (s.aloneContext r) = result s) :
    RetiresWriting i rd result := by
  rintro s r hr rfl
  have hrun := State.runsTo_of_no_memory hr (h.answer _ _ _) rfl h.notLoad (storeClass_of_destination h.destination)
    (ne_halt_of_destination h.destination)
  rw [commitX_of_destination (c := (s.aloneContext r).executed _) h.destination, hvalue s r rfl] at hrun
  exact hrun

end IsArithmetic

/-! ### The opcodes -/

theorem isArithmetic_add (rd rs1 rs2 : Reg) :
    IsArithmetic (.add rd rs1 rs2) rd fun c => wrap32 (c.operand1.toInt + c.operand2.toInt) :=
  ⟨rfl, rfl, rfl, fun _ _ _ => rfl⟩

theorem isArithmetic_sub (rd rs1 rs2 : Reg) :
    IsArithmetic (.sub rd rs1 rs2) rd fun c => wrap32 (c.operand1.toInt - c.operand2.toInt) :=
  ⟨rfl, rfl, rfl, fun _ _ _ => rfl⟩

theorem isArithmetic_and (rd rs1 rs2 : Reg) :
    IsArithmetic (.and rd rs1 rs2) rd fun c => c.operand1 &&& c.operand2 :=
  ⟨rfl, rfl, rfl, fun _ _ _ => rfl⟩

theorem isArithmetic_or (rd rs1 rs2 : Reg) :
    IsArithmetic (.or rd rs1 rs2) rd fun c => c.operand1 ||| c.operand2 :=
  ⟨rfl, rfl, rfl, fun _ _ _ => rfl⟩

theorem isArithmetic_xor (rd rs1 rs2 : Reg) :
    IsArithmetic (.xor rd rs1 rs2) rd fun c => c.operand1 ^^^ c.operand2 :=
  ⟨rfl, rfl, rfl, fun _ _ _ => rfl⟩

theorem isArithmetic_mul (rd rs1 rs2 : Reg) :
    IsArithmetic (.mul rd rs1 rs2) rd fun c => wrap32 (c.operand1.toInt * c.operand2.toInt) :=
  ⟨rfl, rfl, rfl, fun _ _ _ => rfl⟩

theorem isArithmetic_addl (rd rs1 : Reg) (imm : Word) :
    IsArithmetic (.addl rd rs1 imm) rd fun c => wrap32 (c.operand1.toInt + imm.toInt) :=
  ⟨rfl, rfl, rfl, fun _ _ _ => rfl⟩

theorem isArithmetic_subl (rd rs1 : Reg) (imm : Word) :
    IsArithmetic (.subl rd rs1 imm) rd fun c => wrap32 (c.operand1.toInt - imm.toInt) :=
  ⟨rfl, rfl, rfl, fun _ _ _ => rfl⟩

theorem isArithmetic_movc (rd : Reg) (imm : Word) : IsArithmetic (.movc rd imm) rd fun _ => imm :=
  ⟨rfl, rfl, rfl, fun _ _ _ => rfl⟩

/-- Settles O35, the Execute phase of the six. -/
theorem registerArithmeticExecutes : Obligations.RegisterArithmeticExecutes := fun rd rs1 rs2 =>
  ⟨(isArithmetic_add rd rs1 rs2).executesTo, (isArithmetic_sub rd rs1 rs2).executesTo,
    (isArithmetic_and rd rs1 rs2).executesTo, (isArithmetic_or rd rs1 rs2).executesTo,
    (isArithmetic_xor rd rs1 rs2).executesTo, (isArithmetic_mul rd rs1 rs2).executesTo⟩

/-- Settles O36, the Execute phase of the three. -/
theorem immediateArithmeticExecutes : Obligations.ImmediateArithmeticExecutes := fun rd rs1 imm =>
  ⟨(isArithmetic_addl rd rs1 imm).executesTo, (isArithmetic_subl rd rs1 imm).executesTo,
    (isArithmetic_movc rd imm).executesTo⟩

/-! ### From the encoding to the retirement -/

theorem registerRule_of_isArithmetic {make : Reg → Reg → Reg → Instr} {code : BitVec 8} {f : Word → Word → Word}
    (hform : ∀ rd rs1 rs2, encode (make rd rs1 rs2) = code ++ rd ++ rs1 ++ rs2 ++ 0#4 ++ 0#8 ++ 0#32 ∧
      source1 (make rd rs1 rs2) = some rs1 ∧ source2 (make rd rs1 rs2) = some rs2)
    (h : ∀ rd rs1 rs2, IsArithmetic (make rd rs1 rs2) rd fun c => f c.operand1 c.operand2) :
    RegisterRule make code f := by
  intro rd rs1 rs2
  obtain ⟨hencode, hsource1, hsource2⟩ := hform rd rs1 rs2
  refine ⟨hencode, fun s => ?_, (h rd rs1 rs2).executesTo, (h rd rs1 rs2).retiresWriting fun s r hi => ?_⟩
  · rw [(h rd rs1 rs2).hazard, hsource1, hsource2]
    rfl
  · have h1 : source1 r.instr = some rs1 := (congrArg source1 hi).trans hsource1
    have h2 : source2 r.instr = some rs2 := (congrArg source2 hi).trans hsource2
    rw [State.operand1_aloneContext h1, State.operand2_aloneContext h2]

/-- Settles O45: the six have the fields and sources of format R3 and differ in opcode number and value only. -/
theorem registerArithmeticRules : Obligations.RegisterArithmeticRules :=
  ⟨registerRule_of_isArithmetic (fun _ _ _ => ⟨rfl, rfl, rfl⟩) isArithmetic_add,
    registerRule_of_isArithmetic (fun _ _ _ => ⟨rfl, rfl, rfl⟩) isArithmetic_sub,
    registerRule_of_isArithmetic (fun _ _ _ => ⟨rfl, rfl, rfl⟩) isArithmetic_and,
    registerRule_of_isArithmetic (fun _ _ _ => ⟨rfl, rfl, rfl⟩) isArithmetic_or,
    registerRule_of_isArithmetic (fun _ _ _ => ⟨rfl, rfl, rfl⟩) isArithmetic_xor,
    registerRule_of_isArithmetic (fun _ _ _ => ⟨rfl, rfl, rfl⟩) isArithmetic_mul⟩

theorem immediateRule_of_isArithmetic {make : Reg → Reg → Word → Instr} {code : BitVec 8} {f : Word → Word → Word}
    (hform : ∀ rd rs1 imm, encode (make rd rs1 imm) = code ++ rd ++ rs1 ++ 0#4 ++ 0#4 ++ 0#8 ++ imm ∧
      source1 (make rd rs1 imm) = some rs1 ∧ source2 (make rd rs1 imm) = none)
    (h : ∀ rd rs1 imm, IsArithmetic (make rd rs1 imm) rd fun c => f c.operand1 imm) :
    ImmediateRule make code f := by
  intro rd rs1 imm
  obtain ⟨hencode, hsource1, hsource2⟩ := hform rd rs1 imm
  refine ⟨hencode, fun s => ?_, (h rd rs1 imm).executesTo, (h rd rs1 imm).retiresWriting fun s r hi => ?_⟩
  · rw [(h rd rs1 imm).hazard, hsource1, hsource2]
    simp only [State.pendingOperand, Bool.or_false]
  · have h1 : source1 r.instr = some rs1 := (congrArg source1 hi).trans hsource1
    rw [State.operand1_aloneContext h1]

/-- Settles O46: ADDL and SUBL have the fields and the one source of format RI; MOVC reads no register. -/
theorem immediateArithmeticRules : Obligations.ImmediateArithmeticRules :=
  ⟨immediateRule_of_isArithmetic (fun _ _ _ => ⟨rfl, rfl, rfl⟩) isArithmetic_addl,
    immediateRule_of_isArithmetic (fun _ _ _ => ⟨rfl, rfl, rfl⟩) isArithmetic_subl,
    fun rd imm => ⟨rfl, fun _ => rfl, (isArithmetic_movc rd imm).executesTo,
      (isArithmetic_movc rd imm).retiresWriting fun _ _ _ => rfl⟩⟩

/-! ### CMP (R139) -/

/-- Settles O37: its Execute stage answers a flag and nothing else. -/
theorem compareExecutes : Obligations.CompareExecutes := by
  intro rs1 rs2 s c hc
  have hanswer : executeAnswer s.params.dmemWords s.z (.cmp rs1 rs2) c =
      .ok { newZ := some (c.operand1 == c.operand2) } := rfl
  rw [exec_of_ok hc hanswer, State.finishExecute_eq]
  rfl

/-- Settles O47: with no destination nothing but `Z` is written. -/
theorem compareRule : Obligations.CompareRule := by
  refine fun rs1 rs2 => ⟨rfl, fun s => ?_, compareExecutes rs1 rs2, fun s r hr hi => ?_⟩
  · simp [State.hazard, source1, source2, source3, destination, State.pendingOperand]
  · have h1 : source1 r.instr = some rs1 := congrArg source1 hi
    have h2 : source2 r.instr = some rs2 := congrArg source2 hi
    have hd : destination r.instr = none := congrArg destination hi
    have hhalt : r.instr ≠ .halt := by simp [hi]
    have he : executeAnswer s.params.dmemWords s.z r.instr (s.aloneContext r) =
        .ok { newZ := some (s.reg rs1 == s.reg rs2) } := by
      rw [hi, ← State.operand1_aloneContext h1, ← State.operand2_aloneContext h2]
      rfl
    have hrun := State.runsTo_of_no_memory hr he rfl (congrArg loadClass hi) (congrArg storeClass hi) hhalt
    rw [commitX_of_no_destination (c := (s.aloneContext r).executed _) hd] at hrun
    exact hrun

end Sys2Proof.Machine

/-! ## A lone instruction that faults in Execute (R91, R196)

The third tick is cut off by the fault: what two ticks have left stands, with the fault on record. -/

namespace Sys2Proof.Machine

open Statements

/-- A fault ends the tick: no phase after Execute runs (R91). -/
theorem step_of_lx_alone_fault {s : State} {c : InstructionContext} {k : FaultKind} (hs : s.status = .running)
    (hr : s.redir = false) (hc : s.lx.content = some c) (hm : s.lm.content = none) (hw : s.lw.content = none)
    (hk : executeAnswer s.params.dmemWords s.z c.instr c = .fault k) : step s = .next (s.enterFault k c) := by
  rw [step_of_lx_alone hs hr hc hm hw, exec_of_fault hc hk, andThen_next, afterExecute_of_faulted rfl]

namespace State

variable {s : State} {r : Record} {k : FaultKind}

theorem readOperand_none (s : State) (o : Option Reg) : s.readOperand o none = o.map s.reg := by
  cases o <;> rfl

theorem aloneContext_eq (s : State) (r : Record) :
    s.aloneContext r =
      { pc := s.pc
        record := r
        v1 := (source1 r.instr).map s.reg
        v2 := (source2 r.instr).map s.reg
        v3 := (source3 r.instr).map s.reg } := by
  simp only [← readOperand_none]
  rfl

/-- The third tick of a faulting instruction: its destination, marked at issue, stays pending. -/
theorem step_aloneInExecute_fault (h : FetchedAlone s r)
    (hk : executeAnswer s.params.dmemWords s.z r.instr (s.aloneContext r) = .fault k) :
    step (s.aloneInExecute r) = .next
      { afterAloneFault s r k ((source1 r.instr).map s.reg) ((source2 r.instr).map s.reg)
          ((source3 r.instr).map s.reg) with
        pend := (s.markDestination r.instr).pend } := by
  have heq := aloneInExecute_eq h
  obtain ⟨hs, _, _, _, _, _, hlm, hlw, _, _, _⟩ := h
  obtain ⟨hstatus, hredir, hx, _, hm, hw, hz, hparams⟩ := s.aloneInExecute_fields r
  rw [← hz, ← hparams] at hk
  rw [step_of_lx_alone_fault (c := s.aloneContext r) (hstatus.trans hs) hredir hx (congrArg _ (hm.trans hlm))
    (congrArg _ (hw.trans hlw)) hk, heq, aloneContext_eq]
  rfl

theorem runsTo_aloneFault (h : FetchedAlone s r)
    (hk : executeAnswer s.params.dmemWords s.z r.instr (s.aloneContext r) = .fault k) :
    RunsTo 3 s { afterAloneFault s r k ((source1 r.instr).map s.reg) ((source2 r.instr).map s.reg)
        ((source3 r.instr).map s.reg) with
      pend := (s.markDestination r.instr).pend } :=
  runsTo_succ.2 ⟨_, step_fetches_alone h, runsTo_succ.2 ⟨_, step_issues_alone h,
    runsTo_of_step (step_aloneInExecute_fault h hk)⟩⟩

end State

/-! ## Multiply and divide (R150 to R152)

DIV answers as an arithmetic instruction does for a divisor that is not 0, and a fault for the divisor 0. So its
completion is stated for one answer (`exec_of_arithmeticAnswer`, `runsTo_of_arithmeticAnswer`), where `IsArithmetic`
asks for every context. -/

theorem divUnit_of_ne_zero {c : InstructionContext} (h : c.operand2 ≠ 0#32) :
    divUnit c = arithmeticAnswer (wrap32 (c.operand1.toInt.tdiv c.operand2.toInt)) := if_neg h

theorem divUnit_of_eq_zero {c : InstructionContext} (h : c.operand2 = 0#32) : divUnit c = .fault .arithmetic := if_pos h

theorem exec_of_arithmeticAnswer {i : Instr} {s : State} {c : InstructionContext} {v : Word}
    (hc : s.lx.content = some c) (he : executeAnswer s.params.dmemWords s.z i c = arithmeticAnswer v) :
    exec i s = .next { s with
      z := v == 0#32
      lm := { s.lm with content := some { c with result := some v } }
      lx := { s.lx with content := none } } := by
  rw [exec_of_ok hc he, State.finishExecute_eq]
  rfl

theorem runsTo_of_arithmeticAnswer {s : State} {r : Record} {rd : Reg} {v : Word} (h : FetchedAlone s r)
    (hd : destination r.instr = some rd) (hl : loadClass r.instr = false)
    (he : executeAnswer s.params.dmemWords s.z r.instr (s.aloneContext r) = arithmeticAnswer v) :
    RunsTo 5 s { afterAlone s r with x := s.x.set rd.toNat v rd.isLt, z := v == 0#32 } := by
  have hrun := State.runsTo_of_no_memory h he rfl hl (storeClass_of_destination hd) (ne_halt_of_destination hd)
  rw [commitX_of_destination (c := (s.aloneContext r).executed _) hd] at hrun
  exact hrun

/-- Settles O38: the two answers of the divider. -/
theorem divideExecutes : Obligations.DivideExecutes := fun _ _ _ _ _ hc =>
  ⟨fun hne => exec_of_arithmeticAnswer hc (divUnit_of_ne_zero hne),
    fun hzero => exec_of_fault hc (divUnit_of_eq_zero hzero)⟩

/-- Settles O48: alone, DIV retires by the divider's first answer, and is left in `LX` by its second. -/
theorem divideRule : Obligations.DivideRule := by
  refine fun rd rs1 rs2 => ⟨rfl, fun s => ?_, divideExecutes rd rs1 rs2, fun s r hr hi => ?_⟩
  · simp [State.hazard, source1, source2, source3, destination, State.pendingOperand]
  · have hanswer : executeAnswer s.params.dmemWords s.z r.instr (s.aloneContext r) = divUnit (s.aloneContext r) := by
      rw [hi]
      rfl
    have hv1 : (s.aloneContext r).operand1 = s.reg rs1 := State.operand1_aloneContext (congrArg source1 hi)
    have hv2 : (s.aloneContext r).operand2 = s.reg rs2 := State.operand2_aloneContext (congrArg source2 hi)
    constructor
    · intro hne
      rw [← hv2] at hne
      rw [← hv1, ← hv2]
      exact runsTo_of_arithmeticAnswer hr (congrArg destination hi) (congrArg loadClass hi)
        (hanswer.trans (divUnit_of_ne_zero hne))
    · intro hzero
      have hrun := State.runsTo_aloneFault hr (hanswer.trans (divUnit_of_eq_zero (hv2.trans hzero)))
      rw [hi] at hrun
      exact hrun

/-! ### The sign table (R152) -/

/-- A row names its numbers as integers: a word is the wrap of any integer congruent to the one named, and is 0 only
for the number 0 of the signed range. -/
theorem arithmeticAnswer_wrap32 {n m : Int} (hcongr : n % 4294967296 = m % 4294967296) (hlo : -2147483648 ≤ m)
    (hhi : m ≤ 2147483647) :
    arithmeticAnswer (wrap32 n) = .ok { result := some (wrap32 m), newZ := some (decide (m = 0)) } := by
  have hflag : zeroFlag (wrap32 m) = decide (m = 0) := by
    rw [zeroFlag, beq_eq_decide, decide_eq_decide, ← BitVec.toInt_inj, toInt_wrap32_of_bounds hlo hhi]
    rfl
  rw [wrap32_eq_of_emod_eq hcongr, arithmeticAnswer, hflag]

/-- The integer facts about the rows that the units need. -/
theorem signTable_rows : ∀ row ∈ signTable,
    (-2147483648 ≤ row.1 ∧ row.1 ≤ 2147483647) ∧ (-2147483648 ≤ row.2.1 ∧ row.2.1 ≤ 2147483647) ∧
    ((row.1 * row.2.1) % 4294967296 = row.2.2.1 % 4294967296 ∧ -2147483648 ≤ row.2.2.1 ∧ row.2.2.1 ≤ 2147483647) ∧
    (row.2.2.2 = none ↔ row.2.1 = 0) ∧
    ∀ q ∈ row.2.2.2, row.1.tdiv row.2.1 % 4294967296 = q % 4294967296 ∧ -2147483648 ≤ q ∧ q ≤ 2147483647 := by
  decide

/-- Settles O53: the operands of a row, read signed, are its numbers, so its MUL column is their product and its DIV
column their quotient, up to the wrap. -/
theorem multiplyDivideSignTable : Obligations.MultiplyDivideSignTable := by
  rintro ⟨a, b, p, o⟩ hrow c hc1 hc2
  obtain ⟨⟨halo, hahi⟩, ⟨hblo, hbhi⟩, ⟨hp, hplo, hphi⟩, hnone, hq⟩ := signTable_rows _ hrow
  have ha : c.operand1.toInt = a := by
    rw [InstructionContext.operand1, hc1]
    exact toInt_wrap32_of_bounds halo hahi
  have hb : c.operand2.toInt = b := by
    rw [InstructionContext.operand2, hc2]
    exact toInt_wrap32_of_bounds hblo hbhi
  have hzero : c.operand2 = 0#32 ↔ b = 0 := by
    rw [← BitVec.toInt_inj, hb]
    rfl
  refine ⟨?_, ?_⟩
  · rw [mulUnit, mulResult, ha, hb]
    exact arithmeticAnswer_wrap32 hp hplo hphi
  · cases o with
    | none => exact divUnit_of_eq_zero (hzero.2 (hnone.1 rfl))
    | some q =>
      obtain ⟨hcongr, hqlo, hqhi⟩ := hq q rfl
      have hne : c.operand2 ≠ 0#32 := fun h => Option.some_ne_none q (hnone.2 (hzero.1 h))
      rw [divUnit_of_ne_zero hne, ha, hb]
      exact arithmeticAnswer_wrap32 hcongr hqlo hqhi

end Sys2Proof.Machine

/-! ## No stop under the invariant (R8, R69, R160) -/

namespace Sys2Proof.Machine

/-- Settles O12: under the invariant the tick is the clocked edge, which is always a state. -/
theorem invariantStatesNeverStop : Obligations.InvariantStatesNeverStop := fun s h => ⟨clockedEdge s, h.step_eq⟩

end Sys2Proof.Machine

/-! ## Loads and stores (R160 to R164)

The Execute stage of the four memory instructions is the address unit, with data for a store: `Addresses`. Their
completion, their fault and their run alone follow from that; an opcode adds its encoding, its sources and its operand
order. Two words sum to less than `2^32`, so an effective address that is not negative survives wrapping whatever
`DMEM_WORDS` is (`toNat_wrap32_effectiveAddress`), and the run alone needs no bound on `DMEM_WORDS`. -/

namespace Sys2Proof.Machine

open Statements

/-! ### The address unit (R160) -/

section

variable {n : Nat} {base off : Word}

theorem addressInRange_eq_true {ea : Int} : addressInRange n ea = true ↔ 0 ≤ ea ∧ ea < n := by
  simp [addressInRange]

theorem addressInRange_eq_false {ea : Int} : addressInRange n ea = false ↔ ea < 0 ∨ n ≤ ea := by
  rw [Bool.eq_false_iff, ne_eq, addressInRange_eq_true]
  omega

theorem addressAnswer_of_in_range (result : Option Word) (hlo : 0 ≤ effectiveAddress base off)
    (hhi : effectiveAddress base off < n) :
    addressAnswer n base off result = .ok { result := result, addr := some (wrap32 (effectiveAddress base off)) } :=
  if_pos (addressInRange_eq_true.2 ⟨hlo, hhi⟩)

theorem addressAnswer_of_out_of_range (result : Option Word)
    (h : effectiveAddress base off < 0 ∨ n ≤ effectiveAddress base off) :
    addressAnswer n base off result = .fault .address := by
  rw [addressAnswer, addressInRange_eq_false.2 h]
  rfl

theorem toNat_wrap32_effectiveAddress (h : 0 ≤ effectiveAddress base off) :
    (wrap32 (effectiveAddress base off)).toNat = (effectiveAddress base off).toNat := by
  obtain ⟨_, hbase⟩ := toInt_word_bounds base
  obtain ⟨_, hoff⟩ := toInt_word_bounds off
  have hlt : effectiveAddress base off < 4294967296 := by
    rw [effectiveAddress]
    omega
  rw [wrap32, BitVec.toNat_ofInt]
  omega

end

/-! ### The Execute phase -/

/-- `i` addresses memory at `base + off`, with `data` to store if it is a store (R160). -/
def Addresses (i : Instr) (base off : InstructionContext → Word) (data : InstructionContext → Option Word) : Prop :=
  ∀ n z c, executeAnswer n z i c = addressAnswer n (base c) (off c) (data c)

theorem addresses_load (rd rs1 : Reg) (imm : Word) :
    Addresses (.load rd rs1 imm) (fun c => c.operand1) (fun _ => imm) fun _ => none := fun _ _ _ => rfl

theorem addresses_ldr (rd rs1 rs2 : Reg) :
    Addresses (.ldr rd rs1 rs2) (fun c => c.operand1) (fun c => c.operand2) fun _ => none := fun _ _ _ => rfl

theorem addresses_store (rs1 rs2 : Reg) (imm : Word) :
    Addresses (.store rs1 rs2 imm) (fun c => c.operand2) (fun _ => imm) fun c => some c.operand1 := fun _ _ _ => rfl

theorem addresses_str (rs1 rs2 rs3 : Reg) :
    Addresses (.str rs1 rs2 rs3) (fun c => c.operand2) (fun c => c.operand3) fun c => some c.operand1 :=
  fun _ _ _ => rfl

namespace Addresses

variable {i : Instr} {base off : InstructionContext → Word} {data : InstructionContext → Option Word}

theorem executesAddress (h : Addresses i base off data) :
    ExecutesAddress i base off fun c => produced (data c) c.result :=
  fun _ c hc hlo hhi => exec_of_ok hc ((h _ _ c).trans (addressAnswer_of_in_range _ hlo hhi))

theorem executesAddressFault (h : Addresses i base off data) : ExecutesAddressFault i base off :=
  fun _ c hc hout => exec_of_fault hc ((h _ _ c).trans (addressAnswer_of_out_of_range _ hout))

end Addresses

/-- Settles O39: a load produces no result in Execute, so the field stays. -/
theorem loadsExecute : Obligations.LoadsExecute := fun rd rs1 rs2 imm =>
  ⟨(addresses_load rd rs1 imm).executesAddress, (addresses_ldr rd rs1 rs2).executesAddress⟩

/-- Settles O40: a store's data becomes its result. -/
theorem storesExecute : Obligations.StoresExecute := fun rs1 rs2 rs3 imm =>
  ⟨(addresses_store rs1 rs2 imm).executesAddress, (addresses_str rs1 rs2 rs3).executesAddress⟩

/-- Settles O41: the fault of the address unit, whichever instruction uses it. -/
theorem outOfRangeAddressEntersFaulted : Obligations.OutOfRangeAddressEntersFaulted := fun rd rs1 rs2 rs3 imm =>
  ⟨(addresses_load rd rs1 imm).executesAddressFault, (addresses_ldr rd rs1 rs2).executesAddressFault,
    (addresses_store rs1 rs2 imm).executesAddressFault, (addresses_str rs1 rs2 rs3).executesAddressFault⟩

/-! ### Alone, from Execute to the retirement -/

namespace State

theorem operand3_aloneContext {s : State} {r : Record} {q : Reg} (h : source3 r.instr = some q) :
    (s.aloneContext r).operand3 = s.reg q := by
  have hv : (s.aloneContext r).v3 = some (s.reg q) := readOperand_of_some h _
  simp [InstructionContext.operand3, hv]

theorem pend_markDestination_of_destination {s : State} {i : Instr} {rd : Reg} (h : destination i = some rd) :
    (s.markDestination i).pend = s.pend.set rd.toNat true rd.isLt := by
  simp [markDestination, h, setPending]

theorem markDestination_of_no_destination {s : State} {i : Instr} (h : destination i = none) :
    s.markDestination i = s := by
  simp [markDestination, h]

end State

/-- `addr` names the effective address itself: in range, wrapping loses nothing. -/
theorem InstructionContext.addrField_executed {base off : Word} (c : InstructionContext) (result : Option Word)
    (h : 0 ≤ effectiveAddress base off) :
    (c.executed { result := result, addr := some (wrap32 (effectiveAddress base off)) }).addrField =
      (effectiveAddress base off).toNat :=
  toNat_wrap32_effectiveAddress h

namespace Addresses

variable {i : Instr} {base off : InstructionContext → Word} {data : InstructionContext → Option Word}
  {ea : State → Int} {s : State} {r : Record}

/-- In range, the lone instruction retires with the context that holds its address (R160, R228). -/
theorem runsTo_aloneRetired (h : Addresses r.instr base off data) (hr : FetchedAlone s r)
    (hlo : 0 ≤ effectiveAddress (base (s.aloneContext r)) (off (s.aloneContext r)))
    (hhi : effectiveAddress (base (s.aloneContext r)) (off (s.aloneContext r)) < s.params.dmemWords) :
    RunsTo 5 s (s.aloneRetired r
      { result := data (s.aloneContext r)
        addr := some (wrap32 (effectiveAddress (base (s.aloneContext r)) (off (s.aloneContext r)))) }) := by
  refine State.runsTo_aloneRetired hr ((h _ _ _).trans (addressAnswer_of_in_range _ hlo hhi)) rfl fun _ => ?_
  rw [InstructionContext.addrField_executed _ _ hlo]
  omega

/-- Out of range, the lone instruction faults in the third tick (R192, R196). -/
theorem runsTo_aloneFault (h : Addresses r.instr base off data) (hr : FetchedAlone s r)
    (hout : effectiveAddress (base (s.aloneContext r)) (off (s.aloneContext r)) < 0 ∨
      s.params.dmemWords ≤ effectiveAddress (base (s.aloneContext r)) (off (s.aloneContext r))) :
    RunsTo 3 s { afterAloneFault s r .address ((source1 r.instr).map s.reg) ((source2 r.instr).map s.reg)
        ((source3 r.instr).map s.reg) with
      pend := (s.markDestination r.instr).pend } :=
  State.runsTo_aloneFault hr ((h _ _ _).trans (addressAnswer_of_out_of_range _ hout))

theorem loadRule {rd : Reg} (h : Addresses i base off fun _ => none) (hd : destination i = some rd)
    (hl : loadClass i = true) (h3 : source3 i = none)
    (hea : ∀ (s : State) (r : Record), r.instr = i →
      effectiveAddress (base (s.aloneContext r)) (off (s.aloneContext r)) = ea s) :
    LoadRule i rd ea (fun s => (source1 i).map s.reg) (fun s => (source2 i).map s.reg) := by
  rintro s r hr rfl
  rw [← hea s r rfl]
  constructor
  · intro hlo hhi
    have hrun := h.runsTo_aloneRetired hr hlo hhi
    rw [State.aloneRetired, commitX_of_destination (by rwa [State.aloneCompleted_instr]),
      commitMem_of_not_store (by rw [State.aloneCompleted_instr]; exact storeClass_of_destination hd),
      if_neg (ne_halt_of_destination hd), State.aloneCompleted,
      InstructionContext.resultField_loaded (c := (s.aloneContext r).executed _) hl,
      InstructionContext.addrField_executed _ _ hlo] at hrun
    exact hrun
  · intro hout
    have hrun := h.runsTo_aloneFault hr hout
    rw [State.pend_markDestination_of_destination hd, h3] at hrun
    exact hrun

theorem storeRule {value : State → Word} (h : Addresses i base off data) (hst : storeClass i = true)
    (hh : i ≠ .halt)
    (hvalue : ∀ (s : State) (r : Record), r.instr = i → data (s.aloneContext r) = some (value s))
    (hea : ∀ (s : State) (r : Record), r.instr = i →
      effectiveAddress (base (s.aloneContext r)) (off (s.aloneContext r)) = ea s) :
    StoreRule i value ea (fun s => (source1 i).map s.reg) (fun s => (source2 i).map s.reg)
      (fun s => (source3 i).map s.reg) := by
  rintro s r hr rfl
  have hd := destination_of_storeClass hst
  rw [← hea s r rfl]
  constructor
  · intro hlo hhi
    have hrun := h.runsTo_aloneRetired hr hlo hhi
    rw [hvalue s r rfl, State.aloneRetired, State.aloneCompleted,
      InstructionContext.loaded_of_not_load (c := (s.aloneContext r).executed _) (loadClass_of_no_destination hd),
      commitX_of_no_destination (c := (s.aloneContext r).executed _) hd,
      commitMem_of_store (c := (s.aloneContext r).executed _) hst, if_neg hh,
      InstructionContext.addrField_executed _ _ hlo] at hrun
    exact ⟨_, hrun, rfl, fun hwf a => Memory.read_write hwf _ _ a⟩
  · intro hout
    have hrun := h.runsTo_aloneFault hr hout
    rw [State.markDestination_of_no_destination hd] at hrun
    exact hrun

end Addresses

/-- Settles O49: LOAD's offset is its immediate, LDR's its second source. -/
theorem loadRules : Obligations.LoadRules := by
  intro rd rs1 rs2 imm
  obtain ⟨hload, hldr⟩ := loadsExecute rd rs1 rs2 imm
  refine ⟨rfl, rfl, fun s => ?_, hload, hldr, (addresses_load rd rs1 imm).loadRule rfl rfl rfl fun s r hi => ?_,
    (addresses_ldr rd rs1 rs2).loadRule rfl rfl rfl fun s r hi => ?_⟩
  · simp [State.hazard, source1, source2, source3, destination, State.pendingOperand]
  · exact congrArg (effectiveAddress · imm) (State.operand1_aloneContext (congrArg source1 hi))
  · exact congrArg₂ effectiveAddress (State.operand1_aloneContext (congrArg source1 hi))
      (State.operand2_aloneContext (congrArg source2 hi))

/-- Settles O50: the first source is the data, the second the base; STORE's offset is its immediate, STR's its third
source. -/
theorem storeRules : Obligations.StoreRules := by
  intro rs1 rs2 rs3 imm
  obtain ⟨hstore, hstr⟩ := storesExecute rs1 rs2 rs3 imm
  refine ⟨rfl, rfl, fun s => ?_, hstore, hstr,
    (addresses_store rs1 rs2 imm).storeRule rfl nofun
      (fun s r hi => congrArg some (State.operand1_aloneContext (congrArg source1 hi))) fun s r hi => ?_,
    (addresses_str rs1 rs2 rs3).storeRule rfl nofun
      (fun s r hi => congrArg some (State.operand1_aloneContext (congrArg source1 hi))) fun s r hi => ?_⟩
  · simp [State.hazard, source1, source2, source3, destination, State.pendingOperand]
  · exact congrArg (effectiveAddress · imm) (State.operand2_aloneContext (congrArg source2 hi))
  · exact congrArg₂ effectiveAddress (State.operand2_aloneContext (congrArg source2 hi))
      (State.operand3_aloneContext (congrArg source3 hi))

end Sys2Proof.Machine

/-! ## Branches alone (R170 to R172, R228)

A branch reads no register and produces nothing, so alone it reaches `LX` as it was fetched. Not taken, it retires like
any lone instruction. Taken, the third tick redirects: `LD` was empty and `REDIR` keeps Fetch from the target until the
next tick, so all that tick leaves is the target, fetch open, and the branch in `LM`. -/

namespace Sys2Proof.Machine

open Statements

/-- With `LM` and `LW` empty a tick that takes a branch is its redirect: Decode and Fetch do nothing (R92, R103). -/
theorem step_of_lx_alone_taken {s : State} {c : InstructionContext} {target : Word} (hs : s.status = .running)
    (hr : s.redir = false) (hc : s.lx.content = some c) (hm : s.lm.content = none) (hw : s.lw.content = none)
    (he : executeAnswer s.params.dmemWords s.z c.instr c = .ok { taken := some target }) :
    step s = .next ((s.redirect target).toMemory c).endTick := by
  have hne : ((s.redirect target).toMemory c).status ≠ .faulted := by simp [hs]
  rw [step_of_lx_alone hs hr hc hm hw, exec_of_ok hc he, andThen_next, finishExecute_of_taken,
    afterExecute_of_not_faulted hne, decodePhase_of_empty rfl, fetchPhase_of_redir rfl, andThen_next]

/-- The lone taken branch in `LM`, three ticks on, with the pc at its target (R170). -/
def State.aloneRedirected (s : State) (r : Record) (imm : Word) : State :=
  { s with
    pc := branchTarget s.pc imm
    clk := s.clk + 3#64
    lf := { last := some (fetchedContext s.pc r), stall := false }
    lm := { content := some (fetchedContext s.pc r), stall := false } }

/-- `i` decides by `taken` whether to go to its own address plus `imm`; it uses no register and no memory
(R67, R170). -/
structure IsBranch (i : Instr) (imm : Word) (taken : State → Bool) : Prop where
  source1 : source1 i = none
  source2 : source2 i = none
  source3 : source3 i = none
  destination : destination i = none
  notStore : storeClass i = false
  notHalt : i ≠ .halt
  answer : ∀ (s : State) (c : InstructionContext),
    executeAnswer s.params.dmemWords s.z i c = branchAnswer (taken s) imm c

theorem isBranch_bz (imm : Word) : IsBranch (.bz imm) imm fun s => s.z :=
  ⟨rfl, rfl, rfl, rfl, rfl, nofun, fun _ _ => rfl⟩

theorem isBranch_bnz (imm : Word) : IsBranch (.bnz imm) imm fun s => !s.z :=
  ⟨rfl, rfl, rfl, rfl, rfl, nofun, fun _ _ => rfl⟩

namespace IsBranch

variable {i : Instr} {imm : Word} {taken : State → Bool} {s : State} {r : Record}

theorem hazard (h : IsBranch i imm taken) (s : State) : s.hazard i = false := by
  simp [State.hazard, h.source1, h.source2, h.source3, h.destination, State.pendingOperand]

theorem aloneContext (h : IsBranch r.instr imm taken) (s : State) : s.aloneContext r = fetchedContext s.pc r := by
  rw [State.aloneContext_eq, h.source1, h.source2, h.source3]
  rfl

theorem aloneInExecute (h : IsBranch r.instr imm taken) (hr : FetchedAlone s r) :
    s.aloneInExecute r = { afterAlone s r with
      clk := s.clk + 2#64
      retired := s.retired
      lx := { content := some (fetchedContext s.pc r), stall := false } } := by
  rw [State.aloneInExecute_eq hr, h.aloneContext, State.markDestination_of_no_destination h.destination]
  rfl

/-- The third tick of a taken branch (R92). -/
theorem step_aloneInExecute (h : IsBranch r.instr imm taken) (hr : FetchedAlone s r) (ht : taken s = true) :
    step (s.aloneInExecute r) = .next (s.aloneRedirected r imm) := by
  have hanswer : executeAnswer s.params.dmemWords s.z r.instr (fetchedContext s.pc r) =
      .ok { taken := some (branchTarget s.pc imm) } := by
    rw [h.answer, ht]
    rfl
  have heq := h.aloneInExecute hr
  obtain ⟨hs, hfen, hredir, _, hld, hlx, hlm, hlw, _, _, _⟩ := hr
  obtain ⟨hstatus, hclear, _, _, hm, hw, hz, hparams⟩ := s.aloneInExecute_fields r
  have hx : (s.aloneInExecute r).lx.content = some (fetchedContext s.pc r) := by rw [heq]
  rw [← hz, ← hparams] at hanswer
  rw [step_of_lx_alone_taken (c := fetchedContext s.pc r) (hstatus.trans hs) hclear hx
    (congrArg _ (hm.trans hlm)) (congrArg _ (hw.trans hlw)) hanswer, heq]
  simp [State.redirect, State.toMemory, State.endTick, afterAlone, State.aloneRedirected, hfen, hredir, hld, hlx, hlm,
    Latch.empty, BitVec.add_assoc]

theorem runsTo_of_taken (h : IsBranch r.instr imm taken) (hr : FetchedAlone s r) (ht : taken s = true) :
    RunsTo 3 s (s.aloneRedirected r imm) :=
  runsTo_succ.2 ⟨_, step_fetches_alone hr, runsTo_succ.2 ⟨_, step_issues_alone hr,
    runsTo_of_step (h.step_aloneInExecute hr ht)⟩⟩

theorem runsTo_of_not_taken (h : IsBranch r.instr imm taken) (hr : FetchedAlone s r) (ht : taken s = false) :
    RunsTo 5 s (afterAlone s r) := by
  have hanswer : executeAnswer s.params.dmemWords s.z r.instr (s.aloneContext r) = .ok {} := by
    rw [h.answer, ht]
    rfl
  have hrun := State.runsTo_of_no_memory hr hanswer rfl (loadClass_of_no_destination h.destination) h.notStore h.notHalt
  rw [commitX_of_no_destination (c := (s.aloneContext r).executed _) h.destination] at hrun
  exact hrun

end IsBranch

theorem branchRule_of_isBranch {make : Word → Instr} {code : BitVec 8} {taken : State → Bool}
    (hencode : ∀ imm, encode (make imm) = code ++ 0#4 ++ 0#4 ++ 0#4 ++ 0#4 ++ 0#8 ++ imm)
    (h : ∀ imm, IsBranch (make imm) imm taken) : BranchRule make code taken := by
  refine fun imm => ⟨hencode imm, (h imm).hazard, branchExecutes_of_answer (h imm).answer, fun s r hr hi => ?_⟩
  have hbranch := h imm
  rw [← hi] at hbranch
  exact ⟨hbranch.runsTo_of_taken hr, hbranch.runsTo_of_not_taken hr⟩

/-- Settles O51: BZ and BNZ differ in opcode number and condition only. -/
theorem branchRules : Obligations.BranchRules :=
  ⟨branchRule_of_isBranch (fun _ => rfl) isBranch_bz, branchRule_of_isBranch (fun _ => rfl) isBranch_bnz⟩

end Sys2Proof.Machine

/-! ## NOP, HALT and the stuck machine (R180 to R182)

NOP and HALT use no register and no memory and answer nothing in Execute: alone, such an instruction leaves what
`afterAlone` counts, and the status by which Writeback tells HALT from NOP. The stuck machine has not even that in
flight, so all five phases of its tick are idle. -/

namespace Sys2Proof.Machine

open Statements

/-- Settles O27: Writeback and Memory find their latches empty, and the front of the pipeline is idle. -/
theorem stuckMachineOnlyCounts : Obligations.StuckMachineOnlyCounts := by
  rintro s ⟨hs, hd, ⟨hx, hm, hw⟩, hf⟩
  exact step_of_idle_front hs (wbPhase_of_empty hw) (memPhase_of_empty hm) hx hd hf

/-- `i` has no operand and stores nothing, and its Execute stage answers nothing (R180, R181). -/
structure PassesThrough (i : Instr) : Prop where
  source1 : source1 i = none
  source2 : source2 i = none
  source3 : source3 i = none
  destination : destination i = none
  notStore : storeClass i = false
  answer : ∀ (n : Nat) (z : Bool) (c : InstructionContext), executeAnswer n z i c = .ok {}

theorem passesThrough_nop : PassesThrough .nop := ⟨rfl, rfl, rfl, rfl, rfl, fun _ _ _ => rfl⟩

theorem passesThrough_halt : PassesThrough .halt := ⟨rfl, rfl, rfl, rfl, rfl, fun _ _ _ => rfl⟩

namespace PassesThrough

variable {i : Instr} {s : State} {r : Record}

theorem hazard (h : PassesThrough i) (s : State) : s.hazard i = false := by
  simp [State.hazard, h.source1, h.source2, h.source3, h.destination, State.pendingOperand]

theorem exec_eq {c : InstructionContext} (h : PassesThrough i) (hc : s.lx.content = some c) :
    exec i s = .next (s.toMemory c) := by
  rw [exec_of_ok hc (h.answer _ _ _), finishExecute_of_nothing]

/-- What Writeback commits for it is the retirement and, for HALT, the status (R89). -/
theorem aloneRetired_eq (h : PassesThrough r.instr) (s : State) :
    s.aloneRetired r {} = { afterAlone s r with status := if r.instr = .halt then .halted else s.status } := by
  have hd : Machine.destination (s.aloneCompleted r {}).instr = none := by
    rw [State.aloneCompleted_instr, h.destination]
  have hst : storeClass (s.aloneCompleted r {}).instr = false := by
    rw [State.aloneCompleted_instr, h.notStore]
  rw [State.aloneRetired, commitX_of_no_destination hd, commitMem_of_not_store hst]
  rfl

theorem runsTo (h : PassesThrough r.instr) (hr : FetchedAlone s r) :
    RunsTo 5 s { afterAlone s r with status := if r.instr = .halt then .halted else s.status } := by
  rw [← h.aloneRetired_eq]
  exact State.runsTo_aloneRetired hr (h.answer _ _ _) rfl
    (by simp [loadClass_of_no_destination h.destination, h.notStore])

end PassesThrough

/-- Settles O43: both are handed to `LM` as they stand. -/
theorem nopAndHaltExecute : Obligations.NopAndHaltExecute := by
  rintro i s c (rfl | rfl) hc
  · exact passesThrough_nop.exec_eq hc
  · exact passesThrough_halt.exec_eq hc

/-- Settles O52: the two retire alike, but HALT leaves the status `Halted`. -/
theorem nopAndHaltRules : Obligations.NopAndHaltRules := by
  refine ⟨rfl, rfl, fun s => ⟨passesThrough_nop.hazard s, passesThrough_halt.hazard s⟩, nopAndHaltExecute,
    fun s r hr => ⟨fun hi => ?nop, fun hi => ?halt⟩⟩
  case nop =>
    have hrun := PassesThrough.runsTo (hi ▸ passesThrough_nop) hr
    rwa [if_neg (by simp [hi])] at hrun
  case halt =>
    have hrun := PassesThrough.runsTo (hi ▸ passesThrough_halt) hr
    rwa [if_pos hi] at hrun

end Sys2Proof.Machine

/-! ## Refused loads (R193)

A load is refused when one of the checks of R193 fails; each failed check is a condition on the arguments. -/

namespace Sys2Proof.Machine

theorem exists_initializeRun_eq_error {table : List RecordWord} {pcBase : Int} {n : Nat} {init : Option (List Word)} :
    (∃ e, initializeRun table pcBase n init = .error e) ↔
      initProblem table pcBase n ≠ none ∨ dmemInitMemory n init = none := by
  unfold initializeRun
  cases initProblem table pcBase n with
  | some e => simp
  | none => cases dmemInitMemory n init <;> simp

theorem legalWord_eq_false {w : RecordWord} :
    legalWord w = false ↔ 0x12 < (opField w).toNat ∨ zeroField w ≠ 0#8 := by
  rw [Bool.eq_false_iff, ne_eq, legalWord_iff, not_and_or, not_le]

theorem placementLegal_eq_false {pcBase : Int} {n : Nat} :
    placementLegal pcBase n = false ↔ pcBase < 0 ∨ pcBase + 4 * (n : Int) > 2147483647 := by
  rw [placementLegal, Bool.and_eq_false_iff, decide_eq_false_iff_not, decide_eq_false_iff_not, not_le, not_le]
  rfl

theorem dmemWordsLegal_eq_false {n : Nat} : dmemWordsLegal n = false ↔ n < 1 ∨ n > 2147483648 := by
  rw [dmemWordsLegal, Bool.and_eq_false_iff, decide_eq_false_iff_not, decide_eq_false_iff_not, not_le, not_le]
  rfl

theorem dmemInitMemory_eq_none {n : Nat} {init : Option (List Word)} :
    dmemInitMemory n init = none ↔ ∃ words, init = some words ∧ words.length ≠ n := by
  cases init <;> simp [dmemInitMemory]

/-- Some check of R193 on the table and the parameters fails. -/
theorem initProblem_ne_none {table : List RecordWord} {pcBase : Int} {n : Nat} :
    initProblem table pcBase n ≠ none ↔
      table.isEmpty = true ∨ (∃ w ∈ table, legalWord w = false) ∨ placementLegal pcBase table.length = false ∨
        dmemWordsLegal n = false := by
  rw [ne_eq, initProblem_eq_none, not_and_or, not_and_or, not_and_or, Bool.not_eq_false, Bool.not_eq_true,
    List.all_eq_false, Bool.not_eq_true, Bool.not_eq_true]
  simp only [Bool.not_eq_true]

/-- Settles O8: the checks of `initializeRun`, each negated. -/
theorem initializeRefusesExactly : Obligations.InitializeRefusesExactly := by
  intro table pcBase n init
  rw [exists_initializeRun_eq_error, initProblem_ne_none, dmemInitMemory_eq_none, placementLegal_eq_false,
    dmemWordsLegal_eq_false, List.isEmpty_iff_length_eq_zero]
  simp only [legalWord_eq_false, or_assoc]
  rfl

end Sys2Proof.Machine

/-! ## The status after a tick (R89, R191, R192, R195)

The Execute stage of a tick faults exactly when the instruction in `LX` raises a fault; otherwise the status is the one
Writeback left. -/

namespace Sys2Proof.Machine

open Statements

/-- DIV and the four memory instructions are the only ones whose Execute stage can fault (R191, R192). -/
theorem raisesFault_of_executeAnswer {n : Nat} {z : Bool} {c : InstructionContext} {k : FaultKind}
    (h : executeAnswer n z c.instr c = .fault k) : RaisesFault n c k := by
  cases hi : c.instr <;> rw [hi] at h
  case div rd rs1 rs2 =>
    obtain ⟨hz, hk⟩ := divUnit_eq_fault h
    exact .inl ⟨hk, ⟨rd, rs1, rs2, hi⟩, hz⟩
  case load rd rs1 imm =>
    obtain ⟨hout, hk⟩ := addressAnswer_eq_fault h
    exact .inr ⟨hk, _, addressInRange_eq_false.1 hout, .inl ⟨rd, rs1, imm, hi, rfl⟩⟩
  case ldr rd rs1 rs2 =>
    obtain ⟨hout, hk⟩ := addressAnswer_eq_fault h
    exact .inr ⟨hk, _, addressInRange_eq_false.1 hout, .inr (.inl ⟨rd, rs1, rs2, hi, rfl⟩)⟩
  case store rs1 rs2 imm =>
    obtain ⟨hout, hk⟩ := addressAnswer_eq_fault h
    exact .inr ⟨hk, _, addressInRange_eq_false.1 hout, .inr (.inr (.inl ⟨rs1, rs2, imm, hi, rfl⟩))⟩
  case str rs1 rs2 rs3 =>
    obtain ⟨hout, hk⟩ := addressAnswer_eq_fault h
    exact .inr ⟨hk, _, addressInRange_eq_false.1 hout, .inr (.inr (.inr ⟨rs1, rs2, rs3, hi, rfl⟩))⟩
  all_goals cases h

theorem executeAnswer_eq_fault {n : Nat} {z : Bool} {c : InstructionContext} {k : FaultKind} :
    executeAnswer n z c.instr c = .fault k ↔ RaisesFault n c k :=
  ⟨raisesFault_of_executeAnswer, executeAnswer_of_raisesFault⟩

theorem executeSignals_eq_fault {s : State} {k : FaultKind} :
    executeSignals s = .fault k ↔
      ∃ c, s.lx.content = some c ∧ RaisesFault s.params.dmemWords c k := by
  cases hc : s.lx.content with
  | none => simp [executeSignals_of_empty hc]
  | some c => simp [executeSignals_of_some hc, executeAnswer_eq_fault]

/-- Before Execute the machine has halted exactly if `LW` held a HALT (R89). -/
theorem status_of_back_eq_halted {s u v : State} (hs : s.status = .running) (hu : wbPhase s = .next u)
    (hv : memPhase u = .next v) : v.status = .halted ↔ s.lw.holdsHalt := by
  have hback : v.status = if haltRetires s then .halted else s.status := by
    obtain ⟨hframe, _, _⟩ := memPhase_fields hv
    rw [hframe, wbPhase_eq_afterWB hu]
    rfl
  rw [hback, hs, ← State.haltRetires_eq_true]
  cases haltRetires s <;> simp

/-- Settles O25: by the two ways a tick can go on after Memory, a fault or the completed Execute phase. -/
theorem statusChangesOnlyByFaultOrHalt : Obligations.StatusChangesOnlyByFaultOrHalt := by
  intro s t hs h
  obtain ⟨u, v, hu, hv, ⟨k, c, hk, hc, rfl⟩ | ⟨e, f, he, _, _, hstatus⟩⟩ := step_cases_of_running hs h
  case inl =>
    have hraises : ∃ c k, s.lx.content = some c ∧ RaisesFault s.params.dmemWords c k := by
      obtain ⟨d, hd⟩ := executeSignals_eq_fault.1 hk
      exact ⟨d, k, hd⟩
    refine ⟨iff_of_true rfl hraises, fun d kind hd hr => ?_, iff_of_false nofun fun ⟨_, hno⟩ => hno hraises⟩
    cases hk.symm.trans (executeSignals_eq_fault.2 ⟨d, hd, hr⟩)
    cases hc.symm.trans hd
    rfl
  case inr =>
    have hnone : ¬ ∃ c k, s.lx.content = some c ∧ RaisesFault s.params.dmemWords c k := by
      rintro ⟨c, k, hr⟩
      cases he.symm.trans (executeSignals_eq_fault.2 ⟨c, hr⟩)
    rw [hstatus, status_of_back_eq_halted hs hu hv]
    exact ⟨iff_of_false (status_of_back hs hu hv) hnone, fun c k hc hr => (hnone ⟨c, k, hc, hr⟩).elim,
      (and_iff_left hnone).symm⟩

end Sys2Proof.Machine

/-! ## Stalls end (R194, R229)

A stalled Decode leaves `LX` empty, so the next tick leaves `LM` empty; the tick after that finds a writer in `LW` only,
whose register Writeback releases before Decode looks (R107 path (a)). -/

namespace Sys2Proof.Machine
namespace State

variable {s : State}

theorem Inv.running_of_stall (h : s.Inv) (hst : s.ld.stall = true) : s.status = .running := by
  cases hs : s.status with
  | running => rfl
  | halted =>
    obtain ⟨hld, _⟩ := h.haltedDrained hs
    simpa [hld] using h.stallValid hst
  | faulted => exact (h.phaseInv.not_faulted_of_lx_empty (h.stallBubble hst) hs).elim

theorem Inv.step_of_stall (h : s.Inv) (hst : s.ld.stall = true) : Machine.step s = .next (normalEdge s {}) := by
  rw [clockedEdgeEqualsTick s h,
    clockedEdge_of_ok (h.running_of_stall hst) (executeSignals_of_empty (h.stallBubble hst))]

theorem lm_normalEdge_of_bubble {e : Executed} (hx : s.lx.content = none) :
    (normalEdge s e).lm.content = none := by
  change nextLM s e = none
  rw [nextLM_eq, hx, Option.map_none]

end State

/-- Settles O30: two stalled ticks leave `LX` and `LM` empty, and then nothing stalls Decode. -/
theorem decodeNeverStallsThreeTicksRunning : Obligations.DecodeNeverStallsThreeTicksRunning := by
  rintro s t u v hs _ hst htu huv ⟨ht, hu, hv⟩
  have htinv : t.Inv := hs.step hst
  have huinv : u.Inv := htinv.step htu
  cases (htinv.step_of_stall ht).symm.trans htu
  have hm := State.lm_normalEdge_of_bubble (e := {}) (htinv.stallBubble ht)
  cases (huinv.step_of_stall hu).symm.trans huv
  have hno := huinv.stallSignal_eq_false (e := {}) (huinv.stallBubble hu) hm
  exact Bool.false_ne_true (hno.symm.trans hv)

end Sys2Proof.Machine
